-- ==== Sys2Proof/Word.lean ====
section
/-! DEFINITION. The byte, the baud enumeration, and the small closed types that instructions carry as operands
(spec/00_scope.md R6, R7; spec/30_encoding.md R85, R95, R96). -/

namespace Sys2Proof

/-- `BYTE`: an 8-bit unsigned value, bit 0 the least significant (R6, R7). -/
abbrev Byte := BitVec 8

/-- A baud enum in 0..9; enum value `i` selects `BAUD_RATES[i]` (R85). -/
abbrev BaudEnum := Fin 10

/-- `HDR_LEN` (R6): the fixed packet header is command, payload size, checksum. -/
def hdrLen : Nat := 3

/-- `PKT_MAX` (R6): the cells of a packet buffer. -/
def pktMax : Nat := 258

/-- `CONFIG_LEN` (R6): the size of the set-config record. -/
def configLen : Nat := 3

/-- `BAUD_RATES` (R6), in bit/s: the ten rates in the spec's order. -/
def baudRates : List Nat :=
  [9600, 19200, 45450, 93750, 187500, 500000, 1500000, 3000000, 6000000, 12000000]

/-- The two kinds of transfer a request starts: send and request data (R110), or send only (R111). -/
inductive SendKind where
  | sdr
  | sdn
  deriving DecidableEq, Repr

/-- Which telegram a start delimiter is read from: the outgoing one, by a request (R110, R111), or the reply, by the
receiver (R116). The byte itself does not say; its reader knows (R91). -/
inductive TelegramUse where
  | request (k : SendKind)
  | reply
  deriving DecidableEq, Repr

/-- How an SDR receive ends: the argument of `finish` (R117). -/
inductive FinishEvent where
  | complete
  | error
  deriving DecidableEq, Repr

/-- The packets the block builds (R88): the argument of `queue_reply` (R170). `n` is the received byte count. -/
inductive ReplyKind where
  | ack
  | nack
  | srdReply (n : Nat)
  deriving DecidableEq, Repr

/-- The result an entry point returns to its caller (R96). -/
inductive EntryResult where
  | ok
  | busy
  | invalidArgument
  deriving DecidableEq, Repr

end Sys2Proof
end

