-- ==== Sys2Proof/Syntax.lean ====
section
/-! DEFINITION. The instructions: one constructor for every row of spec/opcode_table.json. The block has no instruction
set; these are "the things the block decodes and executes" (spec/00_scope.md R2). -/

namespace Sys2Proof

/-- One constructor per row of the opcode table, in the table's order.
A host command carries no operand: its packet stands in `rx_pkt` when it runs (R148; log 11).
A start delimiter carries the telegram it is read from (R91; log 12). -/
inductive Instr where
  -- HOSTCMD: byte 0 of a host packet (R82)
  | nop
  | reset
  | setConfig
  | pbSrdReq
  | pbSrdReply
  | pbSdnReq
  | ack
  | nack
  /-- Codes 0x08..0x0F; `low` is bits 2:0 (R93). -/
  | reserved08 (low : BitVec 3)
  /-- Codes 0x10..0x1F; `low` is bits 3:0 (R93). -/
  | reserved10 (low : BitVec 4)
  /-- Codes 0x20..0x3F; `low` is bits 4:0 (R93). -/
  | reserved20 (low : BitVec 5)
  /-- Codes 0x40..0x7F; `low` is bits 5:0 (R93). -/
  | reserved40 (low : BitVec 6)
  /-- Codes 0x80..0xFF; `low` is bits 6:0 (R93). -/
  | reserved80 (low : BitVec 7)
  -- TELEGRAM_SD: the start of a telegram (R89, R90)
  | sd1 (use : TelegramUse)
  /-- 0x68 with the length field and its copy, bytes 1 and 2. -/
  | sd2 (use : TelegramUse) (le ler : Byte)
  | sd3 (use : TelegramUse)
  | sd4 (use : TelegramUse)
  | sc (use : TelegramUse)
  /-- Any other byte 0. -/
  | sdInvalid (use : TelegramUse) (sd : Byte)
  -- EVENT: the steps (R94)
  | spiXfer (bIn : Byte)
  | uartUdre
  | uartTxc
  | uartRxc (b : Byte)
  | uartShift
  -- NOTIFY: PhyLink's events, with the notifier's value (R95)
  | sdnComplete (val : Nat)
  | sdrSent (val : Nat)
  | sdrComplete (n : Nat)
  | sdrError (val : Nat)
  -- ENTRY: internal entry points, no encoding of their own
  | requestSdr
  | requestSdn
  | phyReset
  | phyReinit (be : BaudEnum)
  | finish (ev : FinishEvent)
  | drain
  | handlePacket
  | queueReply (kind : ReplyKind)
  | hostlinkReset
  | boot
  deriving DecidableEq, Repr

end Sys2Proof
end

