-- ==== Sys2Proof/WellFormed.lean ====
section
/-! DEFINITION. Which instruction terms the encodings of spec/30_encoding.md can mean (R89, R95) and which operands the
entry points take (R173). -/

namespace Sys2Proof

/-- The five start delimiter values of R89. -/
def startDelimiters : List Byte := [0x10#8, 0x68#8, 0xA2#8, 0xDC#8, 0xE5#8]

/-- The received byte count an SRD reply or an `SdrComplete` may carry: 1..255 (R95, R173). -/
def replyCountOk (n : Nat) : Bool := decide (1 ≤ n) && decide (n ≤ 255)

/-- The operand of `queue_reply` is one of the packets of R88. -/
def ReplyKind.wf : ReplyKind → Bool
  | .ack => true
  | .nack => true
  | .srdReply n => replyCountOk n

/-- Well-formed: an invalid start delimiter is none of the five (R89), a notifier value is 0 where R95 gives 0 and
1..255 for `SdrComplete`, and a queued SRD reply has 1..255 bytes (R173). The widths of all other fields are their types'. -/
def Instr.wf : Instr → Bool
  | .sdInvalid _ sd => !startDelimiters.contains sd
  | .sdnComplete val => decide (val = 0)
  | .sdrSent val => decide (val = 0)
  | .sdrComplete n => replyCountOk n
  | .sdrError val => decide (val = 0)
  | .queueReply kind => kind.wf
  | .nop => true
  | .reset => true
  | .setConfig => true
  | .pbSrdReq => true
  | .pbSrdReply => true
  | .pbSdnReq => true
  | .ack => true
  | .nack => true
  | .reserved08 _ => true
  | .reserved10 _ => true
  | .reserved20 _ => true
  | .reserved40 _ => true
  | .reserved80 _ => true
  | .sd1 _ => true
  | .sd2 _ _ _ => true
  | .sd3 _ => true
  | .sd4 _ => true
  | .sc _ => true
  | .spiXfer _ => true
  | .uartUdre => true
  | .uartTxc => true
  | .uartRxc _ => true
  | .uartShift => true
  | .requestSdr => true
  | .requestSdn => true
  | .phyReset => true
  | .phyReinit _ => true
  | .finish _ => true
  | .drain => true
  | .handlePacket => true
  | .hostlinkReset => true
  | .boot => true

end Sys2Proof
end

