-- ==== Sys2Proof/Decode.lean ====
section
/-! DEFINITION. The decoder and the encoder of the block's four byte formats (spec/30_encoding.md R82, R89, R94, R95).
The formats reuse the same byte values, so the reader's context says which one applies. Each decoder is total: it answers
an instruction and the bytes after it, or rejects by name. -/

namespace Sys2Proof

/-- The four byte formats of spec/opcode_table.json. The fifth group of rows, ENTRY, has no encoding. -/
inductive Format where
  | hostCmd
  | telegramSd (use : TelegramUse)
  | event
  | notify
  deriving DecidableEq, Repr

/-- Why bytes are no instruction of a format. -/
inductive DecodeError where
  /-- The bytes end before the instruction does. -/
  | truncated
  /-- An event code above 4 (R94). -/
  | unknownEvent (code : Byte)
  /-- A notifier code above 3 (R95). -/
  | unknownNotify (code : Byte)
  /-- A notifier value R95 does not give that event. -/
  | illFormedValue (code val : Byte)
  deriving DecidableEq, Repr

/-- The command of a packet's byte 0: a match on all 8 bits (R82); every value has one meaning (R93). -/
def decodeCommand (c : Byte) : Instr :=
  if c = 0x00#8 then .nop
  else if c = 0x01#8 then .reset
  else if c = 0x02#8 then .setConfig
  else if c = 0x03#8 then .pbSrdReq
  else if c = 0x04#8 then .pbSrdReply
  else if c = 0x05#8 then .pbSdnReq
  else if c = 0x06#8 then .ack
  else if c = 0x07#8 then .nack
  else if c &&& 0xF8#8 = 0x08#8 then .reserved08 (c.extractLsb' 0 3)
  else if c &&& 0xF0#8 = 0x10#8 then .reserved10 (c.extractLsb' 0 4)
  else if c &&& 0xE0#8 = 0x20#8 then .reserved20 (c.extractLsb' 0 5)
  else if c &&& 0xC0#8 = 0x40#8 then .reserved40 (c.extractLsb' 0 6)
  else .reserved80 (c.extractLsb' 0 7)

/-- The start of a telegram: byte 0, and for 0x68 also bytes 1 and 2 (R89, R91). -/
def decodeTelegram (use : TelegramUse) (sd : Byte) (rest : List Byte) : Except DecodeError (Instr × List Byte) :=
  if sd = 0x10#8 then .ok (.sd1 use, rest)
  else if sd = 0x68#8 then
    match rest with
    | le :: ler :: rest' => .ok (.sd2 use le ler, rest')
    | [_] => .error .truncated
    | [] => .error .truncated
  else if sd = 0xA2#8 then .ok (.sd3 use, rest)
  else if sd = 0xDC#8 then .ok (.sd4 use, rest)
  else if sd = 0xE5#8 then .ok (.sc use, rest)
  else .ok (.sdInvalid use sd, rest)

/-- An event: its code, and for codes 0 and 3 one operand byte (R94). -/
def decodeEvent (code : Byte) (rest : List Byte) : Except DecodeError (Instr × List Byte) :=
  if code = 0x00#8 then
    match rest with
    | b :: rest' => .ok (.spiXfer b, rest')
    | [] => .error .truncated
  else if code = 0x01#8 then .ok (.uartUdre, rest)
  else if code = 0x02#8 then .ok (.uartTxc, rest)
  else if code = 0x03#8 then
    match rest with
    | b :: rest' => .ok (.uartRxc b, rest')
    | [] => .error .truncated
  else if code = 0x04#8 then .ok (.uartShift, rest)
  else .error (.unknownEvent code)

/-- A notifier event: its code and its value byte (R95). -/
def decodeNotify (code : Byte) (rest : List Byte) : Except DecodeError (Instr × List Byte) :=
  if 0x03#8 < code then .error (.unknownNotify code)
  else
    match rest with
    | [] => .error .truncated
    | v :: rest' =>
      let i : Instr :=
        if code = 0x00#8 then .sdnComplete v.toNat
        else if code = 0x01#8 then .sdrSent v.toNat
        else if code = 0x02#8 then .sdrComplete v.toNat
        else .sdrError v.toNat
      if i.wf then .ok (i, rest') else .error (.illFormedValue code v)

/-- The decoder: the first instruction of a byte string read in a format, and the bytes after it. -/
def decode (f : Format) (bytes : List Byte) : Except DecodeError (Instr × List Byte) :=
  match bytes with
  | [] => .error .truncated
  | c :: rest =>
    match f with
    | .hostCmd => .ok (decodeCommand c, rest)
    | .telegramSd use => decodeTelegram use c rest
    | .event => decodeEvent c rest
    | .notify => decodeNotify c rest

/-- The format an instruction's row stands in; an ENTRY row has none (its `match` in the table is null). -/
def Instr.format : Instr → Option Format
  | .nop => some .hostCmd
  | .reset => some .hostCmd
  | .setConfig => some .hostCmd
  | .pbSrdReq => some .hostCmd
  | .pbSrdReply => some .hostCmd
  | .pbSdnReq => some .hostCmd
  | .ack => some .hostCmd
  | .nack => some .hostCmd
  | .reserved08 _ => some .hostCmd
  | .reserved10 _ => some .hostCmd
  | .reserved20 _ => some .hostCmd
  | .reserved40 _ => some .hostCmd
  | .reserved80 _ => some .hostCmd
  | .sd1 use => some (.telegramSd use)
  | .sd2 use _ _ => some (.telegramSd use)
  | .sd3 use => some (.telegramSd use)
  | .sd4 use => some (.telegramSd use)
  | .sc use => some (.telegramSd use)
  | .sdInvalid use _ => some (.telegramSd use)
  | .spiXfer _ => some .event
  | .uartUdre => some .event
  | .uartTxc => some .event
  | .uartRxc _ => some .event
  | .uartShift => some .event
  | .sdnComplete _ => some .notify
  | .sdrSent _ => some .notify
  | .sdrComplete _ => some .notify
  | .sdrError _ => some .notify
  | .requestSdr => none
  | .requestSdn => none
  | .phyReset => none
  | .phyReinit _ => none
  | .finish _ => none
  | .drain => none
  | .handlePacket => none
  | .queueReply _ => none
  | .hostlinkReset => none
  | .boot => none

/-- The encoder: an instruction's bytes in its own format (R82, R89, R94, R95); an ENTRY row has none. -/
def encode : Instr → Option (List Byte)
  | .nop => some [0x00#8]
  | .reset => some [0x01#8]
  | .setConfig => some [0x02#8]
  | .pbSrdReq => some [0x03#8]
  | .pbSrdReply => some [0x04#8]
  | .pbSdnReq => some [0x05#8]
  | .ack => some [0x06#8]
  | .nack => some [0x07#8]
  | .reserved08 low => some [0x08#8 ||| low.setWidth 8]
  | .reserved10 low => some [0x10#8 ||| low.setWidth 8]
  | .reserved20 low => some [0x20#8 ||| low.setWidth 8]
  | .reserved40 low => some [0x40#8 ||| low.setWidth 8]
  | .reserved80 low => some [0x80#8 ||| low.setWidth 8]
  | .sd1 _ => some [0x10#8]
  | .sd2 _ le ler => some [0x68#8, le, ler]
  | .sd3 _ => some [0xA2#8]
  | .sd4 _ => some [0xDC#8]
  | .sc _ => some [0xE5#8]
  | .sdInvalid _ sd => some [sd]
  | .spiXfer b => some [0x00#8, b]
  | .uartUdre => some [0x01#8]
  | .uartTxc => some [0x02#8]
  | .uartRxc b => some [0x03#8, b]
  | .uartShift => some [0x04#8]
  | .sdnComplete val => some [0x00#8, BitVec.ofNat 8 val]
  | .sdrSent val => some [0x01#8, BitVec.ofNat 8 val]
  | .sdrComplete n => some [0x02#8, BitVec.ofNat 8 n]
  | .sdrError val => some [0x03#8, BitVec.ofNat 8 val]
  | .requestSdr => none
  | .requestSdn => none
  | .phyReset => none
  | .phyReinit _ => none
  | .finish _ => none
  | .drain => none
  | .handlePacket => none
  | .queueReply _ => none
  | .hostlinkReset => none
  | .boot => none

/-- The low `n` bytes of `w`, the least significant first: a table word's bytes in the order the link carries them. -/
def bytesOfWord : Nat → Nat → List Byte
  | 0, _ => []
  | n + 1, w => BitVec.ofNat 8 w :: bytesOfWord n (w / 256)

/-- The instruction read from a table word. The one stored word the block itself decodes to choose an operation is
the command byte of a host packet, so the word is read as HOSTCMD (log 15); the other formats reuse its values. The bits
above the table's are 0. -/
def decodeTableWord (nbits w : Nat) : Option Instr :=
  match decode .hostCmd (bytesOfWord ((nbits + 7) / 8) w ++ [0x00#8]) with
  | .ok (i, _) => some i
  | .error _ => none

end Sys2Proof
end

