-- ==== Sys2Proof/Config.lean ====
section
/-! DEFINITION. What an implementation fixes: the OPEN parameters of spec/00_scope.md R6, and the one value the spec
leaves unspecified. Each is a constant with no body, so no proof can see its value. -/

namespace Sys2Proof

/-- The parity of a UART character (`UART_CHAR_FORMAT`, R6; D28). No rule reads it. -/
inductive Parity where
  | noParity
  | even
  | odd
  deriving DecidableEq, Repr, Inhabited

/-- `UART_CHAR_FORMAT` (R6): data bits, parity and stop bits of a UART character. No rule reads it.
The shape of the record is a DESIGN CHOICE (log 6, safe). -/
structure UartCharFormat where
  dataBits : Nat
  parity : Parity
  stopBits : Nat
  deriving DecidableEq, Repr, Inhabited

/-- `SPI_MODE` (R6): clock polarity, phase and bit order. No rule reads it.
The shape of the record is a DESIGN CHOICE (log 6, safe). -/
structure SpiMode where
  clockPolarity : Bool
  clockPhase : Bool
  lsbFirst : Bool
  deriving DecidableEq, Repr, Inhabited

/-- `BAUD_INIT` (R6, R32): the baud enum in force after power-on, OPEN in the spec (log 3, safe). -/
opaque Config.baudInit : BaudEnum

/-- One less than `UART_TXQ_CAP` (R6): the parameter is "an integer of at least 1" (log 5, safe). -/
opaque Config.uartTxqSpare : Nat

/-- `UART_TXQ_CAP` (R6): how many bytes the UART accepts before data-register-empty stops. -/
def Config.uartTxqCap : Nat := Config.uartTxqSpare + 1

/-- `BAUD_DIVISOR` (R6): the hardware divisor of each baud enum, OPEN in the spec (log 6, safe). -/
opaque Config.baudDivisor : BaudEnum → Nat

/-- `SIGNAL_ACTIVE_LEVEL` (R6): the electrical level of the asserted data-ready line, `true` for high (log 6, safe). -/
opaque Config.signalActiveLevel : Bool

/-- `RTS_ACTIVE_LEVEL` (R6): the electrical level of the asserted RTS line, `true` for high (log 6, safe). -/
opaque Config.rtsActiveLevel : Bool

/-- `UART_CHAR_FORMAT` (R6). -/
opaque Config.uartCharFormat : UartCharFormat

/-- `SPI_MODE` (R6). -/
opaque Config.spiMode : SpiMode

/-- FREE VALUE: `cfg_rx_timeout_ms` at power-on, "unspecified, modelled as a draw that no rule reads" (R41; log 4, safe). -/
opaque Config.rxTimeoutInit : Byte

end Sys2Proof
end

