-- ==== Sys2Proof/Machine/State.lean ====
section
/-! DEFINITION. The machine's state as plain data: every field of spec/10_state.md, whether the boot step has run
(spec/70_reset_and_hazards.md R230), and the coming events (the model's own field); the reasons a step can stop; the
power-on state. -/

namespace Sys2Proof.Machine

/-- `phy_state` (R21). Its numeric codes (R96) are `PhyState.code`. -/
inductive PhyState where
  | idle
  | sendingSdr
  | sendingSdn
  | receivingSdr
  deriving DecidableEq, Repr

/-- `phy_tx_ref` (R22): no outgoing telegram, or the one at `rx_pkt[3..]`. -/
inductive TxRef where
  | noRef
  | hostRxPayload
  deriving DecidableEq, Repr

/-- `phy_rx_ref` (R23): no reply buffer, or the one at `tx_pkt[3..]`. -/
inductive RxRef where
  | noRef
  | hostTxPayload
  deriving DecidableEq, Repr

/-- The two byte-indexed memories (R60). -/
inductive Buf where
  | rxPkt
  | txPkt
  deriving DecidableEq, Repr

/-- One packet buffer: the cells written, as (index, byte) pairs with rising indices. An index not listed is an
unwritten cell (R61). -/
abbrev Memory := List Host.Cell

/-- Why the machine stops. -/
inductive Fault where
  /-- Raised by `memRead` of an unwritten cell (R61, R203). Safe: nothing is assumed of what such a cell holds (log 7). -/
  | unwrittenRead (buf : Buf) (i : Nat)
  /-- Raised by `memRead` and `memWrite` at an index outside 0..257, which no buffer has (R60). Safe: no state reachable
  from power-on computes such an index (R62; log 8). -/
  | noSuchCell (buf : Buf) (i : Nat)
  deriving DecidableEq, Repr

/-- Why there is no step. -/
inductive Refusal where
  /-- Raised by exec's arm of an instruction with no meaning yet. Safe. -/
  | notModelled (mnemonic : String)
  /-- Raised by an event's meaning where the event is not admitted: it has no step (R119, R230). Safe (log 10). -/
  | eventNotAdmitted
  /-- Raised by the step where the coming bytes encode no event of R94. Safe (log 10). -/
  | undecodableEvent
  deriving DecidableEq, Repr

/-- The machine state: the five groups of R20, then the two fields behind the order of steps. -/
structure State where
  -- PhyLink (R21 to R26)
  phyState : PhyState
  phyTxRef : TxRef
  phyRxRef : RxRef
  phySize : Nat
  phyCursor : Nat
  phyTail : Bool
  -- PHY output lines and configuration (R28 to R32)
  rts : Bool
  rxEn : Bool
  udreIe : Bool
  activity : Bool
  baud : BaudEnum
  -- HostLink (R33 to R41)
  rxPkt : Memory
  rxCursor : Nat
  rxExpected : Nat
  txPkt : Memory
  txCursor : Nat
  txLen : Nat
  blocked : Bool
  signal : Bool
  cfgRxTimeoutMs : Byte
  -- Environment (R42 to R44)
  uartTxq : List Byte
  wireLog : List (Byte × Bool)
  hostLog : List Byte
  -- Model bookkeeping (R45)
  fault : Option Fault
  /-- The boot step has run and enabled the interrupts (R230, R231; log 2). -/
  booted : Bool
  /-- The MODEL's own field: the events the agents take next, in the codes of R94 (log 1). -/
  script : List Byte
  deriving DecidableEq, Repr

/-- The power-on state: every field at the value its rule gives (R21 to R45, R230). `baud` is the parameter `BAUD_INIT`
(log 3) and `cfg_rx_timeout_ms` the free value of R41 (log 4). -/
def State.reset : State where
  phyState := .idle
  phyTxRef := .noRef
  phyRxRef := .noRef
  phySize := 0
  phyCursor := 0
  phyTail := false
  rts := false
  rxEn := false
  udreIe := false
  activity := false
  baud := Config.baudInit
  rxPkt := []
  rxCursor := 0
  rxExpected := 0
  txPkt := []
  txCursor := 0
  txLen := 0
  blocked := false
  signal := false
  cfgRxTimeoutMs := Config.rxTimeoutInit
  uartTxq := []
  wireLog := []
  hostLog := []
  fault := none
  booted := false
  script := []

end Sys2Proof.Machine
end

