-- ==== Sys2Proof/Machine/Ops.lean ====
section
/-! DEFINITION. The named operations over memory and steps: the cells of the packet buffers (spec/20_memory.md R61), the
admission of events (spec/40_phylink.md R119), taking an interrupt and returning from it (spec/60_exceptions.md R204,
R207, R208), recording a fault (R203), and fetching the next event. -/

namespace Sys2Proof.Machine

/-- What an instruction answers. -/
abbrev Res := Host.Outcome State Fault Refusal

/-- Run `k` in the state `o` reached; a stop stays. -/
def andThen (o : Res) (k : State → Res) : Res :=
  match o with
  | .next t => k t
  | .fault r => .fault r
  | .refused r => .refused r

/-- Go on with a value that was read; a fault of the read stops (`raise Fault(reason)`, R8). -/
def withValue {α : Type} (e : Except Fault α) (k : α → Res) : Res :=
  match e with
  | .ok v => k v
  | .error r => .fault r

/-! ## The packet buffers -/

/-- The byte of cell `i`, or none where the cell is unwritten (R61). -/
def Memory.read : Memory → Nat → Option Byte
  | [], _ => none
  | (a, v) :: m, i => if a = i then some v else Memory.read m i

/-- Cell `i` now holds `v` (R61); the list stays in rising order. -/
def Memory.write : Memory → Nat → Byte → Memory
  | [], i, v => [(i, v)]
  | (a, w) :: m, i, v =>
    if i < a then (i, v) :: (a, w) :: m
    else if i = a then (i, v) :: m
    else (a, w) :: Memory.write m i v

/-- The canonical form: indices strictly rising and inside the buffer (R60). An unlisted cell is unwritten, so no entry
can say what an unlisted cell reads as. -/
abbrev Memory.wf (m : Memory) : Prop :=
  m.Pairwise (fun c d => c.1 < d.1) ∧ ∀ c ∈ m, c.1 < pktMax

/-- The memory a buffer name stands for (R60). -/
def State.buf (s : State) : Buf → Memory
  | .rxPkt => s.rxPkt
  | .txPkt => s.txPkt

/-- `s` with cell `i` of buffer `b` holding `v`. -/
def State.setCell (s : State) (b : Buf) (i : Nat) (v : Byte) : State :=
  match b with
  | .rxPkt => { s with rxPkt := s.rxPkt.write i v }
  | .txPkt => { s with txPkt := s.txPkt.write i v }

/-- `MemRead(buf, i)` (R61). An index no buffer has faults (log 8). -/
def memRead (b : Buf) (i : Nat) (s : State) : Except Fault Byte :=
  if i < pktMax then
    match (s.buf b).read i with
    | some v => .ok v
    | none => .error (.unwrittenRead b i)
  else .error (.noSuchCell b i)

/-- `MemWrite(buf, i, v)` (R61). An index no buffer has faults (log 8). -/
def memWrite (b : Buf) (i : Nat) (v : Byte) (s : State) : Except Fault State :=
  if i < pktMax then .ok (s.setCell b i v) else .error (.noSuchCell b i)

/-- `MemRead` of the `n` cells from `i` on, in index order. -/
def memReadRange (b : Buf) (i : Nat) : Nat → State → Except Fault (List Byte)
  | 0, _ => .ok []
  | n + 1, s =>
    match memRead b i s with
    | .error r => .error r
    | .ok v =>
      match memReadRange b (i + 1) n s with
      | .error r => .error r
      | .ok vs => .ok (v :: vs)

/-! ## Interrupts -/

/-- `UART_UDRE` is admitted: its source is enabled and the UART has room (R119, R204). -/
def admitsUdre (s : State) : Bool := s.udreIe && decide (s.uartTxq.length < Config.uartTxqCap)

/-- `UART_TXC` is admitted: the UART's queue is empty (R119, R204). -/
def admitsTxc (s : State) : Bool := decide (s.uartTxq = [])

/-- `UART_RXC` is admitted: the receiver is enabled (R119, R204). -/
def admitsRxc (s : State) : Bool := s.rxEn

/-- `UART_SHIFT` is admitted: the UART's queue is not empty (R119). -/
def admitsShift (s : State) : Bool := decide (s.uartTxq ≠ [])

/-- `SPI_XFER` is admitted: always; the host may clock at any time (R140, R204). -/
def admitsSpi (_s : State) : Bool := true

/-- TAKING AN INTERRUPT (R204, R207): nothing is saved and no mode changes; control goes to the event's handler, which
runs on the current state. A recorded fault allows no step (R45); before boot no event is admitted (R230); an event
not admitted has no step (R119; log 10). -/
def takeInterrupt (admitted : State → Bool) (handler : State → Res) (s : State) : Res :=
  match s.fault with
  | some r => .fault r
  | none => if s.booted && admitted s then handler s else .refused .eventNotAdmitted

/-- RETURNING FROM A HANDLER (R208): nothing is restored; the handler's last state is the next state. -/
def handlerReturn (s : State) : Res := .next s

/-- `s.fault <- r` (R45). -/
def setFault (r : Fault) (s : State) : State := { s with fault := some r }

/-- The script after the bytes of one event are consumed (log 1). -/
def setScript (rest : List Byte) (s : State) : State := { s with script := rest }

/-- A step's fault is recorded in `fault`, and the rest of the state stays as it was before the handler (R203, R207;
log 9). -/
def recordFault (s : State) (o : Res) : Res :=
  match o with
  | .next t => .next t
  | .fault r => .next (setFault r s)
  | .refused r => .refused r

/-! ## The coming events -/

/-- The next event of the script and the state with its bytes consumed; none where no event is coming (log 1). -/
def fetchEvent (s : State) : Except Refusal (Option (Instr × State)) :=
  match s.script with
  | [] => .ok none
  | c :: rest =>
    match decode .event (c :: rest) with
    | .ok (i, rest') => .ok (some (i, setScript rest' s))
    | .error _ => .error .undecodableEvent

end Sys2Proof.Machine
end

