-- ==== Sys2Proof/Machine/Operands.lean ====
section
/-! DEFINITION. The operand forms: the telegram's size (spec/30_encoding.md R90), the outgoing telegram's
size-determining bytes (R91), the packet checksum (R86), the baud enum of a set-config record (R85), the rate and the
divisor it selects (spec/00_scope.md R6). -/

namespace Sys2Proof.Machine

/-- `telegram_size` (R90): 0 signals an error. Bytes 1 and 2 count only after 0x68. -/
def telegramSize (t : List Byte) : Nat :=
  match t with
  | [] => 0
  | sd :: rest =>
    if sd = 0x10#8 then 6
    else if sd = 0xA2#8 then 14
    else if sd = 0xDC#8 then 3
    else if sd = 0xE5#8 then 1
    else if sd = 0x68#8 then
      match rest with
      | le :: ler :: _ => if le ≠ ler ∨ le.toNat < 4 ∨ 249 < le.toNat then 0 else le.toNat + 6
      | _ => 0
    else 0

/-- How many leading bytes determine the size of a telegram that starts with `sd` (R91). -/
def sizeBytes (sd : Byte) : Nat := if sd = 0x68#8 then 3 else 1

/-- The size of the outgoing telegram `rx_pkt[3..]`: reads byte 0, and bytes 1 and 2 only after 0x68 (R90, R110). -/
def outgoingSize (s : State) : Except Fault Nat :=
  match memRead .rxPkt 3 s with
  | .error r => .error r
  | .ok sd =>
    match memReadRange .rxPkt 3 (sizeBytes sd) s with
    | .error r => .error r
    | .ok t => .ok (telegramSize t)

/-- The "checksum accumulator" over a byte list, wrapping at 8 bits (R86). -/
def byteSum : List Byte → Byte
  | [] => 0#8
  | b :: bs => b + byteSum bs

/-- `fcs(cmd, size, payload)` (R86): the complement of the wrap-around sum. -/
def fcs (cmd size : Byte) (payload : List Byte) : Byte := ~~~(cmd + size + byteSum payload)

/-- The baud enum a byte encodes: 0..9; 10..255 are invalid (R85). -/
def baudOfByte (b : Byte) : Option BaudEnum :=
  if h : b.toNat < 10 then some ⟨b.toNat, h⟩ else none

/-- The rate in bit/s the UART runs at: `BAUD_RATES[baud]` (R6, R85). -/
def State.bitRate (s : State) : Nat := baudRates.getD s.baud.val 0

/-- The hardware divisor in force: `BAUD_DIVISOR(baud)` (R6, R32). -/
def State.divisor (s : State) : Nat := Config.baudDivisor s.baud

end Sys2Proof.Machine
end

