-- ==== Sys2Proof/Machine/Flags.lean ====
section
/-! DEFINITION. The flags of the block, `phy_tail`, `blocked`, `signal`, `rts`, `rx_en`, `udre_ie` and `activity`
(spec/10_state.md R46), as the state updates that write them, and the levels of the output lines. -/

namespace Sys2Proof.Machine

/-- PhyLink is sending: `phy_state` in {SendingSdr, SendingSdn} (R114). -/
def PhyState.sending : PhyState → Bool
  | .idle => false
  | .sendingSdr => true
  | .sendingSdn => true
  | .receivingSdr => false

/-- The numeric code of `phy_state` (R21, R96; the codes are the spec's own: D27, log 31). -/
def PhyState.code : PhyState → Nat
  | .idle => 0
  | .sendingSdr => 1
  | .sendingSdn => 2
  | .receivingSdr => 3

/-- The PhyLink state a number encodes (R96); 4 and above encode none. -/
def phyStateOfCode : Nat → Option PhyState
  | 0 => some .idle
  | 1 => some .sendingSdr
  | 2 => some .sendingSdn
  | 3 => some .receivingSdr
  | _ => none

/-- The state a request of each kind enters (R110, R111). -/
def sendState : SendKind → PhyState
  | .sdr => .sendingSdr
  | .sdn => .sendingSdn

/-- The reply buffer a request of each kind takes: none for SDN (R110, R111). -/
def replyRef : SendKind → RxRef
  | .sdr => .hostTxPayload
  | .sdn => .noRef

/-- An accepted request of an `n`-byte telegram: every field R110 and R111 assign, together (R69). -/
def installTransfer (k : SendKind) (n : Nat) (s : State) : State :=
  { s with
    phyState := sendState k
    phyTxRef := .hostRxPayload
    phyRxRef := replyRef k
    phySize := n
    phyCursor := 0
    phyTail := false
    rxEn := false
    rts := true
    activity := true
    udreIe := true }

/-- `phy_reset` (R112): to `Idle`, the lines de-asserted; `phy_size`, `phy_cursor`, `baud` and `uart_txq` stay. -/
def phyReset (s : State) : State :=
  { s with
    phyState := .idle
    phyTxRef := .noRef
    phyRxRef := .noRef
    phyTail := false
    rts := false
    rxEn := false
    udreIe := false
    activity := false }

/-- `UartWrite(v)` of the next telegram byte; with the last byte the source is disabled and the tail flag set (R114). -/
def queueTelegramByte (v : Byte) (s : State) : State :=
  { s with
    uartTxq := s.uartTxq ++ [v]
    phyCursor := s.phyCursor + 1
    udreIe := if s.phyCursor + 1 = s.phySize then false else s.udreIe
    phyTail := if s.phyCursor + 1 = s.phySize then true else s.phyTail }

/-- The end of an SDR send: the driver off, the receiver on, `ReceivingSdr` with cursor and size zero (R115). -/
def startReceive (s : State) : State :=
  { s with
    phyTail := false
    rts := false
    rxEn := true
    phyState := .receivingSdr
    phyCursor := 0
    phySize := 0 }

/-- The end of an SDN send (R115), which clears `phy_tx_ref` alone, as D9 says. DESIGN CHOICE: R23 lists R115 among the
rules that clear `phy_rx_ref`, R115's pseudocode does not; the model follows R115 and leaves it (log 33). No reachable
state differs: there `phy_rx_ref` is `NONE` during an SDN send already (R111, R47 item 5). -/
def endSdn (s : State) : State :=
  { s with
    phyTail := false
    rts := false
    phyState := .idle
    activity := false
    phyTxRef := .noRef }

/-- The end of an SDR receive (R117): `phy_size` and `phy_cursor` keep their values. -/
def endReceive (s : State) : State :=
  { s with
    phyState := .idle
    rxEn := false
    activity := false
    phyTxRef := .noRef
    phyRxRef := .noRef }

/-- `hostlink_reset` (R174): cursors and lengths 0, flags false, every cell of both buffers unwritten. -/
def hostlinkReset (s : State) : State :=
  { s with
    rxCursor := 0
    rxExpected := 0
    txCursor := 0
    txLen := 0
    signal := false
    blocked := false
    rxPkt := []
    txPkt := [] }

/-- A packet of `len` bytes is queued: drained from its first byte on, the data-ready line asserted (R170). -/
def markQueued (len : Nat) (s : State) : State :=
  { s with txCursor := 0, txLen := len, signal := true }

/-- One byte of the queued packet is drained; with the last one the data-ready line drops (R141). -/
def markDrained (s : State) : State :=
  { s with
    txCursor := s.txCursor + 1
    signal := if s.txCursor + 1 = s.txLen then false else s.signal }

/-! ## One-field updates -/

/-- `s.blocked <- b` (R39). -/
def setBlocked (b : Bool) (s : State) : State := { s with blocked := b }

/-- `s.baud <- be` (R32). -/
def setBaud (be : BaudEnum) (s : State) : State := { s with baud := be }

/-- `s.cfg_rx_timeout_ms <- ms` (R41). -/
def setTimeout (ms : Byte) (s : State) : State := { s with cfgRxTimeoutMs := ms }

/-- `s.phy_size <- n` (R24). -/
def setPhySize (n : Nat) (s : State) : State := { s with phySize := n }

/-- `s.phy_cursor <- n` (R25). -/
def setPhyCursor (n : Nat) (s : State) : State := { s with phyCursor := n }

/-- `s.phy_tail <- false` (R26). -/
def clearTail (s : State) : State := { s with phyTail := false }

/-- `s.udre_ie <- false` (R30). -/
def disableUdre (s : State) : State := { s with udreIe := false }

/-- `s.rx_cursor <- n` (R34). -/
def setRxCursor (n : Nat) (s : State) : State := { s with rxCursor := n }

/-- `s.rx_expected <- n` (R35). -/
def setRxExpected (n : Nat) (s : State) : State := { s with rxExpected := n }

/-- The host received `v` (R44). -/
def logHostByte (v : Byte) (s : State) : State := { s with hostLog := s.hostLog ++ [v] }

/-- The UART put its oldest queued byte `v` on the line, recorded beside `rts`; `q` is left queued (R43, R118). -/
def putOnWire (v : Byte) (q : List Byte) (s : State) : State :=
  { s with wireLog := s.wireLog ++ [(v, s.rts)], uartTxq := q }

/-- The interrupts are enabled: the last act of boot (R231; log 2). -/
def enableInterrupts (s : State) : State := { s with booted := true }

/-! ## Output levels -/

/-- The electrical level of the data-ready line, `true` for high (R214, R6). -/
def State.signalLevel (s : State) : Bool :=
  if s.signal then Config.signalActiveLevel else !Config.signalActiveLevel

/-- The electrical level of the RTS/driver-enable line, `true` for high (R215, R6). -/
def State.rtsLevel (s : State) : Bool :=
  if s.rts then Config.rtsActiveLevel else !Config.rtsActiveLevel

end Sys2Proof.Machine
end

