-- ==== Sys2Proof/Machine/Reply.lean ====
section
/-! DEFINITION. Building and queueing reply packets, draining them, and the HostLink reset
(spec/42_hostlink_commands.md R170 to R174; spec/41_hostlink_rx.md R141). -/

namespace Sys2Proof.Machine

/-- The three header bytes of the transmit packet (R171 to R173). -/
def putHeader (cmd size cs : Byte) (s : State) : State :=
  ((s.setCell .txPkt 0 cmd).setCell .txPkt 1 size).setCell .txPkt 2 cs

/-- `build(kind)` (R171, R172, R173): the packet's length and the state with its header written. The payload of an
SRD reply already stands in `tx_pkt[3..]`. -/
def buildReply (kind : ReplyKind) (s : State) : Except Fault (Nat × State) :=
  match kind with
  | .ack => .ok (3, putHeader 0x06#8 0x00#8 0xF9#8 s)
  | .nack => .ok (3, putHeader 0x07#8 0x00#8 0xF8#8 s)
  | .srdReply n =>
    match memReadRange .txPkt 3 n s with
    | .error r => .error r
    | .ok payload =>
      .ok (3 + n, putHeader 0x04#8 (BitVec.ofNat 8 n) (fcs 0x04#8 (BitVec.ofNat 8 n) payload) s)

/-- `queue_reply(kind)` (R170): the packet is built before the line is asserted. -/
def execQueueReply (kind : ReplyKind) (s : State) : Res :=
  withValue (buildReply kind s) fun p => .next (markQueued p.1 p.2)

/-- `drain()` (R141): the next outgoing byte, 0x00 once the packet is exhausted, and the state after it. -/
def drainByte (s : State) : Except Fault (Byte × State) :=
  if s.txCursor < s.txLen then
    match memRead .txPkt s.txCursor s with
    | .error r => .error r
    | .ok v => .ok (v, markDrained s)
  else .ok (0x00#8, s)

/-- `drain` (R141) as an instruction: its effect on the state; the byte goes to its caller (log 13). -/
def execDrain (s : State) : Res :=
  withValue (drainByte s) fun p => .next p.2

/-- `hostlink_reset` (R174). -/
def execHostlinkReset (s : State) : Res := .next (hostlinkReset s)

end Sys2Proof.Machine
end

