-- ==== Sys2Proof/Machine/Notify.lean ====
section
/-! DEFINITION. The HostLink event handler, PhyLink's callback (spec/43_hostlink_events.md R190 to R194). -/

namespace Sys2Proof.Machine

/-- `SdnComplete` (R191): `val` is unused. -/
def execSdnComplete (_val : Nat) (s : State) : Res :=
  execQueueReply .ack (setBlocked false s)

/-- `SdrSent` (R192): `val` is unused. -/
def execSdrSent (_val : Nat) (s : State) : Res :=
  .next (setBlocked false s)

/-- `SdrComplete(n)` (R193). -/
def execSdrComplete (n : Nat) (s : State) : Res :=
  execQueueReply (.srdReply n) s

/-- `SdrError` (R194): `val` is unused. -/
def execSdrError (_val : Nat) (s : State) : Res :=
  execQueueReply .nack (setBlocked false s)

/-- PhyLink's four events (R95). -/
inductive PhyEvent where
  | sdnComplete
  | sdrSent
  | sdrComplete
  | sdrError
  deriving DecidableEq, Repr

/-- `notify(ev, val)` (R120): the callback `on_event` (R190), inside the step that raises the event. -/
def notify (ev : PhyEvent) (val : Nat) (s : State) : Res :=
  match ev with
  | .sdnComplete => execSdnComplete val s
  | .sdrSent => execSdrSent val s
  | .sdrComplete => execSdrComplete val s
  | .sdrError => execSdrError val s

end Sys2Proof.Machine
end

