-- ==== Sys2Proof/Machine/Telegram.lean ====
section
/-! DEFINITION. PhyLink's use of a telegram's start: the requests (spec/40_phylink.md R110, R111), the end of a receive
(R117), and the meaning of each start delimiter (spec/30_encoding.md R89, R90). -/

namespace Sys2Proof.Machine

/-- `finish(ev)` (R117): `SdrComplete` carries the received byte count. -/
def execFinish (ev : FinishEvent) (s : State) : Res :=
  match ev with
  | .complete => notify .sdrComplete s.phyCursor (endReceive s)
  | .error => notify .sdrError 0 (endReceive s)

/-- The request of an outgoing telegram whose size is `n`: Busy first, then InvalidArgument, else the transfer is
installed (R110, R111). -/
def acceptTelegram (k : SendKind) (n : Nat) (s : State) : EntryResult × State :=
  if s.phyState ≠ .idle then (.busy, s)
  else if n = 0 then (.invalidArgument, s)
  else (.ok, installTransfer k n s)

/-- `request_sdr` and `request_sdn` (R110, R111): no telegram byte is read while busy. -/
def request (k : SendKind) (s : State) : Except Fault (EntryResult × State) :=
  if s.phyState ≠ .idle then .ok (.busy, s)
  else
    match outgoingSize s with
    | .error r => .error r
    | .ok n => .ok (acceptTelegram k n s)

/-- `request_sdr` (R110) as an instruction: its effect on the state; the result goes to its caller (log 13). -/
def execRequestSdr (s : State) : Res :=
  withValue (request .sdr s) fun p => .next p.2

/-- `request_sdn` (R111) as an instruction: its effect on the state; the result goes to its caller (log 13). -/
def execRequestSdn (s : State) : Res :=
  withValue (request .sdn s) fun p => .next p.2

/-- The reply is complete when the cursor reaches its resolved size (R116, the last test). -/
def completeIfWhole (s : State) : Res :=
  if s.phySize ≠ 0 ∧ s.phyCursor = s.phySize then execFinish .complete s else handlerReturn s

/-- The receiver resolves the reply's size: 0 aborts the transfer (R116). -/
def resolveReply (n : Nat) (s : State) : Res :=
  if n = 0 then execFinish .error (setPhySize n s)
  else completeIfWhole (setPhySize n s)

/-- What PhyLink does with a telegram whose start gives the size `n` (R90): a request takes or rejects it (R110, R111);
the receiver, in `ReceivingSdr`, resolves the reply (R116; log 12). -/
def resolveTelegram (use : TelegramUse) (n : Nat) (s : State) : Res :=
  match use with
  | .request k => .next (acceptTelegram k n s).2
  | .reply => if s.phyState ≠ .receivingSdr then handlerReturn s else resolveReply n s

/-- Start delimiter 0x10 (R89, R90). -/
def execSd1 (use : TelegramUse) (s : State) : Res :=
  resolveTelegram use (telegramSize [0x10#8]) s

/-- Start delimiter 0x68 with LE and LEr (R89, R90). -/
def execSd2 (use : TelegramUse) (le ler : Byte) (s : State) : Res :=
  resolveTelegram use (telegramSize [0x68#8, le, ler]) s

/-- Start delimiter 0xA2 (R89, R90). -/
def execSd3 (use : TelegramUse) (s : State) : Res :=
  resolveTelegram use (telegramSize [0xA2#8]) s

/-- Start delimiter 0xDC (R89, R90). -/
def execSd4 (use : TelegramUse) (s : State) : Res :=
  resolveTelegram use (telegramSize [0xDC#8]) s

/-- The single-character telegram 0xE5 (R89, R90). -/
def execSc (use : TelegramUse) (s : State) : Res :=
  resolveTelegram use (telegramSize [0xE5#8]) s

/-- Any other byte 0: invalid, size 0 (R89, R90). -/
def execSdInvalid (use : TelegramUse) (sd : Byte) (s : State) : Res :=
  resolveTelegram use (telegramSize [sd]) s

end Sys2Proof.Machine
end

