-- ==== Sys2Proof/Machine/Commands.lean ====
section
/-! DEFINITION. The host commands, run for a packet in `rx_pkt` that passed validation
(spec/42_hostlink_commands.md R160 to R169), and PhyLink's reset and re-initialisation (spec/40_phylink.md R112, R113). -/

namespace Sys2Proof.Machine

/-- `phy_reset` (R112). -/
def execPhyReset (s : State) : Res := .next (phyReset s)

/-- `phy_reinit(be)` (R113): it always returns `Ok`. -/
def execPhyReinit (be : BaudEnum) (s : State) : Res := .next (setBaud be (phyReset s))

/-- `NOP` 0x00 (R161): no effect. -/
def execNop (s : State) : Res := .next s

/-- `RESET` 0x01 (R162): both resets, then ACK. -/
def execReset (s : State) : Res :=
  andThen (execPhyReset s) fun s1 =>
    andThen (execHostlinkReset s1) fun s2 => execQueueReply .ack s2

/-- The end of an accepted set-config: the timeout is stored and ACK queued (R163). -/
def acceptConfig (s : State) : Res :=
  withValue (memRead .rxPkt 4 s) fun ms => execQueueReply .ack (setTimeout ms s)

/-- `SET_CONFIG` 0x02 (R163): payload size, then baud enum; a rejected record changes nothing but the reply. -/
def execSetConfig (s : State) : Res :=
  withValue (memRead .rxPkt 1 s) fun size =>
    if size.toNat < configLen then execQueueReply .nack s
    else
      withValue (memRead .rxPkt 3 s) fun b =>
        if b.toNat = s.baud.val then acceptConfig s
        else
          match baudOfByte b with
          | none => execQueueReply .nack s
          | some be => andThen (execPhyReinit be s) acceptConfig

/-- A PROFIBUS request: a rejection queues NACK; an acceptance blocks the link and queues nothing (R164, R166). -/
def startRequest (k : SendKind) (s : State) : Res :=
  withValue (request k s) fun p =>
    match p.1 with
    | .ok => .next (setBlocked true p.2)
    | .busy => execQueueReply .nack p.2
    | .invalidArgument => execQueueReply .nack p.2

/-- `PB_SRD_REQ` 0x03 (R164). -/
def execPbSrdReq (s : State) : Res := startRequest .sdr s

/-- `PB_SRD_REPLY` 0x04 from the host (R165): no effect. -/
def execPbSrdReply (s : State) : Res := .next s

/-- `PB_SDN_REQ` 0x05 (R166). -/
def execPbSdnReq (s : State) : Res := startRequest .sdn s

/-- `ACK` 0x06 from the host (R167): no effect. -/
def execAck (s : State) : Res := .next s

/-- `NACK` 0x07 from the host (R168): no effect. -/
def execNack (s : State) : Res := .next s

/-- Reserved codes 0x08..0x0F (R169): NACK. -/
def execReserved08 (_low : BitVec 3) (s : State) : Res := execQueueReply .nack s

/-- Reserved codes 0x10..0x1F (R169): NACK. -/
def execReserved10 (_low : BitVec 4) (s : State) : Res := execQueueReply .nack s

/-- Reserved codes 0x20..0x3F (R169): NACK. -/
def execReserved20 (_low : BitVec 5) (s : State) : Res := execQueueReply .nack s

/-- Reserved codes 0x40..0x7F (R169): NACK. -/
def execReserved40 (_low : BitVec 6) (s : State) : Res := execQueueReply .nack s

/-- Reserved codes 0x80..0xFF (R169): NACK. -/
def execReserved80 (_low : BitVec 7) (s : State) : Res := execQueueReply .nack s

/-- `dispatch(cmd)` (R160): the command rule by the full 8-bit value. -/
def dispatch (cmd : Byte) (s : State) : Res :=
  if cmd = 0x00#8 then execNop s
  else if cmd = 0x01#8 then execReset s
  else if cmd = 0x02#8 then execSetConfig s
  else if cmd = 0x03#8 then execPbSrdReq s
  else if cmd = 0x04#8 then execPbSrdReply s
  else if cmd = 0x05#8 then execPbSdnReq s
  else if cmd = 0x06#8 then execAck s
  else if cmd = 0x07#8 then execNack s
  else if cmd ≤ 0x0F#8 then execReserved08 (cmd.setWidth 3) s
  else if cmd ≤ 0x1F#8 then execReserved10 (cmd.setWidth 4) s
  else if cmd ≤ 0x3F#8 then execReserved20 (cmd.setWidth 5) s
  else if cmd ≤ 0x7F#8 then execReserved40 (cmd.setWidth 6) s
  else execReserved80 (cmd.setWidth 7) s

end Sys2Proof.Machine
end

