-- ==== Sys2Proof/Machine/HostLink.lean ====
section
/-! DEFINITION. HostLink's receive assembler and validation (spec/41_hostlink_rx.md R140 to R148). -/

namespace Sys2Proof.Machine

/-- `handle_packet()` (R148): a no-op is exempt from the checksum test (R87), so nothing but its command byte is read
(log 32). -/
def execHandlePacket (s : State) : Res :=
  withValue (memRead .rxPkt 0 s) fun cmd =>
    if cmd = 0x00#8 then dispatch cmd s
    else
      withValue (memRead .rxPkt 1 s) fun size =>
        withValue (memRead .rxPkt 2 s) fun cs =>
          withValue (memReadRange .rxPkt 3 size.toNat s) fun payload =>
            if cs ≠ fcs cmd size payload then execQueueReply .nack s else dispatch cmd s

/-- Receive stage 3 (R145): the byte is appended to the receive packet. -/
def storeByte (b : Byte) (s : State) : Except Fault State :=
  match memWrite .rxPkt s.rxCursor b s with
  | .error r => .error r
  | .ok s1 => .ok (setRxCursor (s.rxCursor + 1) s1)

/-- Receive stage 4 (R146): after the third byte the packet's total length is known (R81). -/
def headerComplete (s : State) : Except Fault State :=
  if s.rxCursor = hdrLen then
    match memRead .rxPkt 1 s with
    | .error r => .error r
    | .ok size => .ok (setRxExpected (hdrLen + size.toNat) s)
  else .ok s

/-- Receive stage 5 (R147): a whole packet is validated and dispatched, then the assembler starts anew. -/
def packetComplete (s : State) : Res :=
  if hdrLen ≤ s.rxCursor ∧ s.rxCursor = s.rxExpected then
    andThen (execHandlePacket s) fun t => handlerReturn (setRxExpected 0 (setRxCursor 0 t))
  else handlerReturn s

/-- `receive(b_in)`: the five stages in order (R143 to R147). -/
def receive (b : Byte) (s : State) : Res :=
  if s.blocked then handlerReturn s
  else if s.rxCursor = 0 ∧ b = 0x00#8 then handlerReturn s
  else
    withValue (storeByte b s) fun s1 =>
      withValue (headerComplete s1) fun s2 => packetComplete s2

/-- The SPI transfer-complete handler (R140): the byte out comes from the state before the byte in. -/
def spiHandler (b : Byte) (s : State) : Res :=
  withValue (drainByte s) fun p =>
    receive b (logHostByte p.1 p.2)

end Sys2Proof.Machine
end

