-- ==== Sys2Proof/Machine/Events.lean ====
section
/-! DEFINITION. The events, each one step of the machine (spec/30_encoding.md R94): the UART handlers
(spec/40_phylink.md R114 to R118) and the SPI exchange (spec/41_hostlink_rx.md R140); and the boot step
(spec/70_reset_and_hazards.md R231). -/

namespace Sys2Proof.Machine

/-- The data-register-empty handler (R114). -/
def udreHandler (s : State) : Res :=
  if s.phyState.sending = true ∧ s.phyCursor < s.phySize then
    withValue (memRead .rxPkt (hdrLen + s.phyCursor) s) fun v => handlerReturn (queueTelegramByte v s)
  else handlerReturn (disableUdre s)

/-- The transmit-complete handler (R115): it acts only at the tail of a send. -/
def txcHandler (s : State) : Res :=
  if s.phyTail = false then handlerReturn s
  else
    match s.phyState with
    | .sendingSdr => notify .sdrSent 0 (startReceive s)
    | .sendingSdn => notify .sdnComplete 0 (endSdn s)
    | .idle => handlerReturn (clearTail s)
    | .receivingSdr => handlerReturn (clearTail s)

/-- The size resolution of the receive-complete handler, after byte `b` was stored and counted (R116): at byte 1 for the
fixed forms, at byte 3 for 0x68. -/
def replyByte (b : Byte) (s : State) : Res :=
  if s.phyCursor = 1 ∧ b ≠ 0x68#8 then resolveTelegram .reply (telegramSize [b]) s
  else if s.phyCursor = 3 then
    withValue (memRead .txPkt 3 s) fun sd =>
      if sd = 0x68#8 then
        withValue (memReadRange .txPkt 3 3 s) fun t => resolveTelegram .reply (telegramSize t) s
      else completeIfWhole s
  else completeIfWhole s

/-- The receive-complete handler (R116): a byte outside `ReceivingSdr` is discarded. -/
def rxcHandler (b : Byte) (s : State) : Res :=
  if s.phyState ≠ .receivingSdr then handlerReturn s
  else
    withValue (memWrite .txPkt (hdrLen + s.phyCursor) b s) fun s1 =>
      replyByte b (setPhyCursor (s.phyCursor + 1) s1)

/-- The UART puts the oldest queued byte on the line, recorded beside `rts` (R118). -/
def shiftOne (s : State) : Res :=
  match s.uartTxq with
  | [] => handlerReturn s
  | v :: q => handlerReturn (putOnWire v q s)

/-- `SPI_XFER(b_in)` (R140). -/
def execSpiXfer (bIn : Byte) (s : State) : Res := takeInterrupt admitsSpi (spiHandler bIn) s

/-- `UART_UDRE` (R114, R119). -/
def execUartUdre (s : State) : Res := takeInterrupt admitsUdre udreHandler s

/-- `UART_TXC` (R115, R119). -/
def execUartTxc (s : State) : Res := takeInterrupt admitsTxc txcHandler s

/-- `UART_RXC(b)` (R116, R119). -/
def execUartRxc (b : Byte) (s : State) : Res := takeInterrupt admitsRxc (rxcHandler b) s

/-- `UART_SHIFT` (R118, R119): the environment's own move. -/
def execUartShift (s : State) : Res := takeInterrupt admitsShift shiftOne s

/-- `boot()` (R231): both resets, the cursors, the baud rate, then the interrupts are enabled. The callback is a
constant (R27). `cfg_rx_timeout_ms` and the environment fields stay. -/
def execBoot (s : State) : Res :=
  andThen (execPhyReset s) fun s1 =>
    andThen (execHostlinkReset (setBaud Config.baudInit (setPhyCursor 0 (setPhySize 0 s1)))) fun s2 =>
      .next (enableInterrupts s2)

/-- Cells 3..257 of a packet, all 0x00: the payload area of an instruction whose bits above the table's are 0. -/
def zeroPayload : Memory := (List.range 255).map fun i => (hdrLen + i, 0x00#8)

/-- The link at the last byte of a received packet with command `cmd`, payload size 0 and a payload area of zeros: the
machine has booted and is not blocked, and the coming event is the packet's checksum byte (log 15). -/
def placeCommand (cmd : Byte) (s : State) : State :=
  { s with
    fault := none
    booted := true
    blocked := false
    rxPkt := (0, cmd) :: (1, 0x00#8) :: zeroPayload
    rxCursor := 2
    rxExpected := 0
    script := 0x00#8 :: fcs cmd 0x00#8 [] :: s.script }

end Sys2Proof.Machine
end

