-- ==== Sys2Proof/Machine/Dispatch.lean ====
section
/-! DEFINITION. Dispatch: one arm per row of spec/opcode_table.json, each one call of its meaning. -/

namespace Sys2Proof.Machine

def exec (i : Instr) (s : State) : Host.Outcome State Fault Refusal :=
  match i with
  | .nop => Sys2Proof.Machine.execNop s
  | .reset => Sys2Proof.Machine.execReset s
  | .setConfig => Sys2Proof.Machine.execSetConfig s
  | .pbSrdReq => Sys2Proof.Machine.execPbSrdReq s
  | .pbSrdReply => Sys2Proof.Machine.execPbSrdReply s
  | .pbSdnReq => Sys2Proof.Machine.execPbSdnReq s
  | .ack => Sys2Proof.Machine.execAck s
  | .nack => Sys2Proof.Machine.execNack s
  | .reserved08 low => Sys2Proof.Machine.execReserved08 low s
  | .reserved10 low => Sys2Proof.Machine.execReserved10 low s
  | .reserved20 low => Sys2Proof.Machine.execReserved20 low s
  | .reserved40 low => Sys2Proof.Machine.execReserved40 low s
  | .reserved80 low => Sys2Proof.Machine.execReserved80 low s
  | .sd1 use => Sys2Proof.Machine.execSd1 use s
  | .sd2 use le ler => Sys2Proof.Machine.execSd2 use le ler s
  | .sd3 use => Sys2Proof.Machine.execSd3 use s
  | .sd4 use => Sys2Proof.Machine.execSd4 use s
  | .sc use => Sys2Proof.Machine.execSc use s
  | .sdInvalid use sd => Sys2Proof.Machine.execSdInvalid use sd s
  | .spiXfer bIn => Sys2Proof.Machine.execSpiXfer bIn s
  | .uartUdre => Sys2Proof.Machine.execUartUdre s
  | .uartTxc => Sys2Proof.Machine.execUartTxc s
  | .uartRxc b => Sys2Proof.Machine.execUartRxc b s
  | .uartShift => Sys2Proof.Machine.execUartShift s
  | .sdnComplete val => Sys2Proof.Machine.execSdnComplete val s
  | .sdrSent val => Sys2Proof.Machine.execSdrSent val s
  | .sdrComplete n => Sys2Proof.Machine.execSdrComplete n s
  | .sdrError val => Sys2Proof.Machine.execSdrError val s
  | .requestSdr => Sys2Proof.Machine.execRequestSdr s
  | .requestSdn => Sys2Proof.Machine.execRequestSdn s
  | .phyReset => Sys2Proof.Machine.execPhyReset s
  | .phyReinit be => Sys2Proof.Machine.execPhyReinit be s
  | .finish ev => Sys2Proof.Machine.execFinish ev s
  | .drain => Sys2Proof.Machine.execDrain s
  | .handlePacket => Sys2Proof.Machine.execHandlePacket s
  | .queueReply kind => Sys2Proof.Machine.execQueueReply kind s
  | .hostlinkReset => Sys2Proof.Machine.execHostlinkReset s
  | .boot => Sys2Proof.Machine.execBoot s

end Sys2Proof.Machine
end

