-- ==== Sys2Proof/Machine/Step.lean ====
section
/-! DEFINITION. One step of the machine (spec/00_scope.md R9): a recorded fault allows none (R45), boot comes first
(R230, R231), then the coming event runs; with no event coming, nothing changes (R218). -/

namespace Sys2Proof.Machine

/-- One step (R9). A fault the event's handler raises is recorded in the next state (R203, R207; log 9). -/
def step (s : State) : Host.Outcome State Fault Refusal :=
  match s.fault with
  | some r => .fault r
  | none =>
    if s.booted then
      match fetchEvent s with
      | .error r => .refused r
      | .ok none => .next s
      | .ok (some (i, s1)) => recordFault s1 (exec i s1)
    else exec .boot s

/-- `s` with the packet of the table word `w` received up to its last byte, which is the coming event (log 15): the very
next step runs that command. -/
def State.withFetchWord (s : State) (_nbits w : Nat) : State :=
  placeCommand (BitVec.ofNat 8 w) s

end Sys2Proof.Machine
end

