-- ==== Sys2Proof/Safety.lean ====
section
/-! DEFINITION. What claims about a run are stated with: the invariants of spec/10_state.md R47 with the bounds that make
them inductive, quiescent states (spec/70_reset_and_hazards.md R242), the packets a reply queues written out byte by byte
(spec/30_encoding.md R88), and the event scripts of a send, of a reply and of a drain (spec/30_encoding.md R97). -/

namespace Sys2Proof.Machine

/-! ## The invariants of R47 -/

/-- R47 item 1. -/
abbrev State.rxEnOk (s : State) : Prop := s.rxEn = true ↔ s.phyState = .receivingSdr

/-- R47 item 2. -/
abbrev State.udreOk (s : State) : Prop :=
  s.udreIe = true → s.phyState.sending = true ∧ s.phyTail = false

/-- R47 item 3. -/
abbrev State.tailOk (s : State) : Prop :=
  s.phyTail = true → s.phyState.sending = true ∧ s.phyCursor = s.phySize

/-- R47 item 4. -/
abbrev State.blockedOk (s : State) : Prop := s.blocked = true ↔ s.phyState.sending = true

/-- R47 item 5. -/
abbrev State.refsOk (s : State) : Prop :=
  (s.phyTxRef ≠ .noRef ↔ s.phyState ≠ .idle) ∧
    (s.phyRxRef ≠ .noRef ↔ (s.phyState = .sendingSdr ∨ s.phyState = .receivingSdr))

/-- R47 item 6. -/
abbrev State.signalOk (s : State) : Prop := s.signal = decide (s.txCursor < s.txLen)

/-- R47 item 7 with the bounds of R34 and R35: the header is incomplete, or the packet is, and its total length is that
of its payload-size byte (R146). -/
abbrev State.assemblerOk (s : State) : Prop :=
  (s.rxExpected = 0 ∧ s.rxCursor < hdrLen) ∨
    (hdrLen ≤ s.rxCursor ∧ s.rxCursor < s.rxExpected ∧ s.rxExpected ≤ pktMax ∧
      (s.rxPkt.read 1).map (fun size => hdrLen + size.toNat) = some s.rxExpected)

/-- R37, R38. -/
abbrev State.drainOk (s : State) : Prop := s.txCursor ≤ s.txLen ∧ s.txLen ≤ pktMax

/-- R24, R25: the bounds of PhyLink's size and cursor in each state; while a reply is unresolved after its first byte,
that byte is 0x68 (R116). -/
abbrev State.cursorOk (s : State) : Prop :=
  s.phySize ≤ 255 ∧ s.phyCursor ≤ 255 ∧
    (s.phyState.sending = true → s.phyCursor ≤ s.phySize) ∧
    (s.phyState = .receivingSdr →
      (s.phySize = 0 ∧ s.phyCursor < 3 ∧ (0 < s.phyCursor → s.txPkt.read 3 = some 0x68#8)) ∨
        s.phyCursor < s.phySize)

/-- R42. -/
abbrev State.txqOk (s : State) : Prop := s.uartTxq.length ≤ Config.uartTxqCap

/-- R60: both buffers are in their canonical form, inside 0..257. -/
abbrev State.buffersOk (s : State) : Prop := s.rxPkt.wf ∧ s.txPkt.wf

/-- The cells that R141, R148, R116 and R173 read were written before: the bytes of the packet being assembled, of the
queued packet and of the reply being received. -/
abbrev State.writtenOk (s : State) : Prop :=
  (∀ i, i < s.rxCursor → (s.rxPkt.read i).isSome = true) ∧
    (∀ i, i < s.txLen → (s.txPkt.read i).isSome = true) ∧
    (s.phyState = .receivingSdr → ∀ i, i < s.phyCursor → (s.txPkt.read (3 + i)).isSome = true)

/-- The invariant: R47 with the bounds that make it inductive. -/
structure State.Inv (s : State) : Prop where
  rxEn : s.rxEnOk
  udre : s.udreOk
  tail : s.tailOk
  blocked : s.blockedOk
  refs : s.refsOk
  signal : s.signalOk
  assembler : s.assemblerOk
  drain : s.drainOk
  cursor : s.cursorOk
  txq : s.txqOk
  buffers : s.buffersOk
  written : s.writtenOk

/-- The machine may take an event: it has booted and no fault is recorded (R119, R230). -/
abbrev State.running (s : State) : Prop := s.fault = none ∧ s.booted = true

/-- A quiescent state (R242). -/
abbrev State.quiescent (s : State) : Prop :=
  s.phyState = .idle ∧ s.blocked = false ∧ s.uartTxq = [] ∧ s.rxCursor = 0 ∧ s.fault = none

/-! ## The packets of R88, written out -/

/-- `s` with the packet header `cmd size cs` in `tx_pkt[0..2]`, `len` bytes queued and the data-ready line asserted
(R170). -/
def State.withReply (s : State) (cmd size cs : Byte) (len : Nat) : State :=
  { s with
    txPkt := ((s.txPkt.write 0 cmd).write 1 size).write 2 cs
    txCursor := 0
    txLen := len
    signal := true }

/-- `s` with the ACK packet 06 00 F9 queued (R88, R171). -/
def State.withAck (s : State) : State := s.withReply 0x06#8 0x00#8 0xF9#8 3

/-- `s` with the NACK packet 07 00 F8 queued (R88, R172). -/
def State.withNack (s : State) : State := s.withReply 0x07#8 0x00#8 0xF8#8 3

/-- `s` with the SRD reply of the received bytes `reply` queued (R88, R173). -/
def State.withSrdReply (s : State) (reply : List Byte) : State :=
  s.withReply 0x04#8 (BitVec.ofNat 8 reply.length) (fcs 0x04#8 (BitVec.ofNat 8 reply.length) reply)
    (3 + reply.length)

/-- `s` after the drain of one SPI tick (R140, R141): with a packet queued, the byte at `tx_cursor` went to the host;
with none, 0x00. `v` is that byte. -/
def State.afterDrain (s : State) (v : Byte) : State :=
  if s.txCursor < s.txLen then
    { s with
      txCursor := s.txCursor + 1
      signal := if s.txCursor + 1 = s.txLen then false else s.signal
      hostLog := s.hostLog ++ [v] }
  else { s with hostLog := s.hostLog ++ [v] }

/-- The byte the host gets in the next tick (R141): the queued byte at `tx_cursor`, or 0x00; none where that cell is
unwritten. -/
def State.byteOut (s : State) : Option Byte :=
  if s.txCursor < s.txLen then s.txPkt.read s.txCursor else some 0x00#8

/-! ## Event scripts (R97), in the codes of R94 -/

/-- `udre; shift`, `n` times, then `txc`: the UART's events of an `n`-byte send. -/
def sendScript : Nat → List Byte
  | 0 => [0x02#8]
  | n + 1 => 0x01#8 :: 0x04#8 :: sendScript n

/-- `rxb` of each byte in order. -/
def replyScript : List Byte → List Byte
  | [] => []
  | b :: bs => 0x03#8 :: b :: replyScript bs

/-- `spi` of each byte in order. -/
def spiScript : List Byte → List Byte
  | [] => []
  | b :: bs => 0x00#8 :: b :: spiScript bs

/-- `k` steps of the machine. -/
def runSteps (k : Nat) (s : State) : Res := Host.Core.run Sys2Proof.core k s

end Sys2Proof.Machine
end

