-- ==== Sys2Proof/Certificates/Slice0/Obligations.lean ====
section
/-! DEFINITION. The statements of this row, each from the numbered rules of spec/. Where a clause rests on a decision the
spec marks as its own, the docstring names it and its log entry, and the statement's basis is "derived". -/

open Sys2Proof
open Sys2Proof.Machine

/-! ## Encoding -/

/-- R82, R89, R94, R95: decoding what the encoder writes gives the instruction back, whatever bytes follow. -/
def Obligations.DecodeOfEncodeIsIdentity : Prop :=
  ∀ (i : Instr) (f : Format) (w rest : List Byte),
    i.wf = true → i.format = some f → encode i = some w → decode f (w ++ rest) = .ok (i, rest)

/-- R82, R89, R94, R95: what decodes is a well-formed instruction of that format, and its encoding is the bytes read. -/
def Obligations.EncodeOfDecodeIsIdentity : Prop :=
  ∀ (f : Format) (bs rest : List Byte) (i : Instr),
    decode f bs = .ok (i, rest) →
      i.wf = true ∧ i.format = some f ∧ ∃ w, encode i = some w ∧ bs = w ++ rest

/-- Words written out from the encoding tables: one or more of each format (R82, R89, R94, R95). -/
def Obligations.SampleWordsDecode : Prop :=
  decode .hostCmd [0x02#8] = .ok (.setConfig, []) ∧
  decode .hostCmd [0x05#8] = .ok (.pbSdnReq, []) ∧
  decode .hostCmd [0x2B#8] = .ok (.reserved20 0x0B#5, []) ∧
  decode (.telegramSd .reply) [0x68#8, 0x0A#8, 0x0B#8, 0x68#8] = .ok (.sd2 .reply 0x0A#8 0x0B#8, [0x68#8]) ∧
  decode (.telegramSd .reply) [0x69#8, 0x04#8] = .ok (.sdInvalid .reply 0x69#8, [0x04#8]) ∧
  decode .event [0x03#8, 0xE5#8] = .ok (.uartRxc 0xE5#8, []) ∧
  decode .event [0x05#8] = .error (.unknownEvent 0x05#8) ∧
  decode .notify [0x02#8, 0x10#8] = .ok (.sdrComplete 16, [])

/-- R160, R82: the dispatch on the full 8-bit command value runs the instruction the decoder reads from that value. -/
def Obligations.DispatchRunsDecodedCommand : Prop :=
  ∀ (cmd : Byte) (s : State), dispatch cmd s = exec (decodeCommand cmd) s

/-! ## The step -/

/-- R9, R94, R203, R207: a running machine whose coming bytes decode to an event takes `exec` of that event, its bytes
consumed; a fault is recorded beside the otherwise unchanged state (the script and the record are the model's: log 1,
log 9). -/
def Obligations.StepRunsDecodedEvent : Prop :=
  ∀ (s : State) (i : Instr) (rest : List Byte),
    s.running → decode .event s.script = .ok (i, rest) →
      (∀ t, exec i { s with script := rest } = .next t → step s = .next t) ∧
      (∀ r, exec i { s with script := rest } = .fault r →
        step s = .next { s with script := rest, fault := some r }) ∧
      (∀ r, exec i { s with script := rest } = .refused r → step s = .refused r)

/-- R230, R231: before boot the step is the boot step, and no event is admitted (the field `booted` is the model's:
log 2). -/
def Obligations.BootComesBeforeEvents : Prop :=
  ∀ (s : State), s.fault = none → s.booted = false →
    step s = exec .boot s ∧
    (∀ b, exec (.spiXfer b) s = .refused .eventNotAdmitted) ∧
    exec .uartUdre s = .refused .eventNotAdmitted ∧
    exec .uartTxc s = .refused .eventNotAdmitted ∧
    (∀ b, exec (.uartRxc b) s = .refused .eventNotAdmitted) ∧
    exec .uartShift s = .refused .eventNotAdmitted

/-- R45: a faulted state takes no further step, and no event is taken in it. -/
def Obligations.FaultedStateTakesNoStep : Prop :=
  ∀ (s : State) (r : Fault), s.fault = some r →
    step s = .fault r ∧
    (∀ b, exec (.spiXfer b) s = .fault r) ∧
    exec .uartUdre s = .fault r ∧
    exec .uartTxc s = .fault r ∧
    (∀ b, exec (.uartRxc b) s = .fault r) ∧
    exec .uartShift s = .fault r

/-- R218: with no event coming, nothing changes; and bytes that encode no event give no step (log 1, log 10). -/
def Obligations.IdleStepChangesNothing : Prop :=
  ∀ (s : State), s.running →
    (s.script = [] → step s = .next s) ∧
    (∀ e, s.script ≠ [] → decode .event s.script = .error e → step s = .refused .undecodableEvent)

/-- R119, R140: in a running machine an event that is admitted is not refused, whatever the reason, and one that is not
admitted has no step (D3, D4; log 10, 17, 18). -/
def Obligations.EventsAreAdmittedAsRuled : Prop :=
  ∀ (s : State), s.running →
    (∀ b r, exec (.spiXfer b) s ≠ .refused r) ∧
    (s.udreIe = true ∧ s.uartTxq.length < Config.uartTxqCap → ∀ r, exec .uartUdre s ≠ .refused r) ∧
    (¬ (s.udreIe = true ∧ s.uartTxq.length < Config.uartTxqCap) → exec .uartUdre s = .refused .eventNotAdmitted) ∧
    (s.uartTxq = [] → ∀ r, exec .uartTxc s ≠ .refused r) ∧
    (s.uartTxq ≠ [] → exec .uartTxc s = .refused .eventNotAdmitted) ∧
    (s.rxEn = true → ∀ b r, exec (.uartRxc b) s ≠ .refused r) ∧
    (s.rxEn = false → ∀ b, exec (.uartRxc b) s = .refused .eventNotAdmitted) ∧
    (s.uartTxq ≠ [] → ∀ r, exec .uartShift s ≠ .refused r) ∧
    (s.uartTxq = [] → exec .uartShift s = .refused .eventNotAdmitted)

/-! ## Reset -/

/-- The power-on values of spec/10_state.md section 8 (D22); `baud` is BAUD_INIT (log 3). -/
def Obligations.PowerOnValues : Prop :=
  State.reset.phyState = .idle ∧ State.reset.phyTxRef = .noRef ∧ State.reset.phyRxRef = .noRef ∧
  State.reset.phySize = 0 ∧ State.reset.phyCursor = 0 ∧ State.reset.phyTail = false ∧
  State.reset.rts = false ∧ State.reset.rxEn = false ∧ State.reset.udreIe = false ∧
  State.reset.activity = false ∧ State.reset.baud = Config.baudInit ∧
  (∀ i, State.reset.rxPkt.read i = none) ∧ State.reset.rxCursor = 0 ∧ State.reset.rxExpected = 0 ∧
  (∀ i, State.reset.txPkt.read i = none) ∧ State.reset.txCursor = 0 ∧ State.reset.txLen = 0 ∧
  State.reset.blocked = false ∧ State.reset.signal = false ∧
  State.reset.uartTxq = [] ∧ State.reset.wireLog = [] ∧ State.reset.hostLog = [] ∧ State.reset.fault = none

/-- R231: boot, "applied to any state, gives the power-on state", except `cfg_rx_timeout_ms`, the environment fields and
the model's bookkeeping (D31; log 2). -/
def Obligations.BootGivesPowerOnState : Prop :=
  ∀ (s : State), exec .boot s =
    .next { State.reset with
      cfgRxTimeoutMs := s.cfgRxTimeoutMs
      uartTxq := s.uartTxq
      wireLog := s.wireLog
      hostLog := s.hostLog
      fault := s.fault
      booted := true
      script := s.script }

/-! ## Host commands -/

/-- R161, R165, R167, R168: NOP, PB_SRD_REPLY, ACK and NACK from the host write no state. -/
def Obligations.InformationalCommandsChangeNothing : Prop :=
  ∀ (s : State),
    exec .nop s = .next s ∧ exec .pbSrdReply s = .next s ∧ exec .ack s = .next s ∧ exec .nack s = .next s

/-- R162 and the table of R232: the state after RESET, whatever the state before (D12, D14, D19, D33; log 20, 23, 26). -/
def Obligations.ResetCommandResult : Prop :=
  ∀ (s : State), exec .reset s =
    .next { s with
      phyState := .idle, phyTxRef := .noRef, phyRxRef := .noRef, phyTail := false
      rts := false, rxEn := false, udreIe := false, activity := false
      rxPkt := [], rxCursor := 0, rxExpected := 0
      txPkt := [(0, 0x06#8), (1, 0x00#8), (2, 0xF9#8)], txCursor := 0, txLen := 3
      blocked := false, signal := true }

/-- R163, rejections: a payload below 3 bytes, or a baud enum above 9 that is not the current one, queues NACK and
changes nothing else (D14, D16, D17; log 23, 25). -/
def Obligations.SetConfigRejections : Prop :=
  ∀ (s : State) (size : Byte), s.rxPkt.read 1 = some size →
    (size.toNat < 3 → exec .setConfig s = .next s.withNack) ∧
    (∀ be, 3 ≤ size.toNat → s.rxPkt.read 3 = some be → 9 < be.toNat → exec .setConfig s = .next s.withNack)

/-- R163 with an unchanged baud enum: the timeout is stored, ACK queued, the PHY untouched (D14, D17; log 23, 25). -/
def Obligations.SetConfigWithCurrentBaud : Prop :=
  ∀ (s : State) (size be ms : Byte),
    s.rxPkt.read 1 = some size → 3 ≤ size.toNat → s.rxPkt.read 3 = some be → s.rxPkt.read 4 = some ms →
      be.toNat = s.baud.val →
        exec .setConfig s = .next ({ s with cfgRxTimeoutMs := ms } : State).withAck

/-- R163, R113 with a new baud enum: the PHY is reset, the rate changes, the timeout is stored, ACK queued
(D12, D14, D17, D18, D33; log 20, 23, 25). -/
def Obligations.SetConfigWithNewBaud : Prop :=
  ∀ (s : State) (size b ms : Byte) (be : BaudEnum),
    s.rxPkt.read 1 = some size → 3 ≤ size.toNat → s.rxPkt.read 3 = some b → s.rxPkt.read 4 = some ms →
      b.toNat = be.val → be ≠ s.baud →
        exec .setConfig s = .next ({ s with
          phyState := .idle, phyTxRef := .noRef, phyRxRef := .noRef, phyTail := false
          rts := false, rxEn := false, udreIe := false, activity := false
          baud := be, cfgRxTimeoutMs := ms } : State).withAck

/-- R164, R110: an accepted PB_SRD_REQ installs the transfer of the telegram at `rx_pkt[3..]`, blocks the link and
queues nothing (D6, D20, D25; log 20, 27, 30). -/
def Obligations.SrdRequestAccepted : Prop :=
  ∀ (s : State) (sd : Byte) (t : List Byte),
    s.phyState = .idle → s.rxPkt.read 3 = some sd →
      memReadRange .rxPkt 3 (if sd = 0x68#8 then 3 else 1) s = .ok t → telegramSize t ≠ 0 →
        exec .pbSrdReq s = .next { s with
          phyState := .sendingSdr, phyTxRef := .hostRxPayload, phyRxRef := .hostTxPayload
          phySize := telegramSize t, phyCursor := 0, phyTail := false
          rxEn := false, rts := true, activity := true, udreIe := true, blocked := true }

/-- R166, R111: an accepted PB_SDN_REQ; no reply buffer is taken (D6, D20, D25; log 20, 27, 30). -/
def Obligations.SdnRequestAccepted : Prop :=
  ∀ (s : State) (sd : Byte) (t : List Byte),
    s.phyState = .idle → s.rxPkt.read 3 = some sd →
      memReadRange .rxPkt 3 (if sd = 0x68#8 then 3 else 1) s = .ok t → telegramSize t ≠ 0 →
        exec .pbSdnReq s = .next { s with
          phyState := .sendingSdn, phyTxRef := .hostRxPayload, phyRxRef := .noRef
          phySize := telegramSize t, phyCursor := 0, phyTail := false
          rxEn := false, rts := true, activity := true, udreIe := true, blocked := true }

/-- R164, R166, R110: a request while PhyLink is not `Idle` is answered with NACK, whatever `rx_pkt` holds; a telegram
of size 0 likewise; neither changes a PhyLink field (D5, D14; log 19, 23). -/
def Obligations.RequestRejections : Prop :=
  ∀ (s : State),
    (s.phyState ≠ .idle → exec .pbSrdReq s = .next s.withNack ∧ exec .pbSdnReq s = .next s.withNack) ∧
    (∀ sd t, s.phyState = .idle → s.rxPkt.read 3 = some sd →
      memReadRange .rxPkt 3 (if sd = 0x68#8 then 3 else 1) s = .ok t → telegramSize t = 0 →
        exec .pbSrdReq s = .next s.withNack ∧ exec .pbSdnReq s = .next s.withNack)

/-- R61, R110, R111, R114, R203, R237: a request faults on the first unwritten one of the telegram's bytes that give its
size: byte 0, and after 0x68 byte 1 or byte 2; an admitted UDRE faults where the telegram's next byte was never written
(D21; log 7; admission: D4, log 18). -/
def Obligations.RequestOfUnwrittenTelegramFaults : Prop :=
  (∀ (s : State) (i : Instr), s.phyState = .idle →
    i = .pbSrdReq ∨ i = .pbSdnReq ∨ i = .requestSdr ∨ i = .requestSdn →
      (s.rxPkt.read 3 = none → exec i s = .fault (.unwrittenRead .rxPkt 3)) ∧
      (s.rxPkt.read 3 = some 0x68#8 → s.rxPkt.read 4 = none → exec i s = .fault (.unwrittenRead .rxPkt 4)) ∧
      (∀ le, s.rxPkt.read 3 = some 0x68#8 → s.rxPkt.read 4 = some le → s.rxPkt.read 5 = none →
        exec i s = .fault (.unwrittenRead .rxPkt 5))) ∧
  (∀ (s : State), s.running → s.udreIe = true → s.uartTxq.length < Config.uartTxqCap →
    s.phyState = .sendingSdr ∨ s.phyState = .sendingSdn → s.phyCursor < s.phySize → s.phyCursor < 255 →
      s.rxPkt.read (3 + s.phyCursor) = none →
        exec .uartUdre s = .fault (.unwrittenRead .rxPkt (3 + s.phyCursor)))

/-- R169: every reserved code queues NACK and writes nothing else (D14, D15; log 23, 24). -/
def Obligations.ReservedCodesQueueNack : Prop :=
  ∀ (s : State),
    (∀ x, exec (.reserved08 x) s = .next s.withNack) ∧
    (∀ x, exec (.reserved10 x) s = .next s.withNack) ∧
    (∀ x, exec (.reserved20 x) s = .next s.withNack) ∧
    (∀ x, exec (.reserved40 x) s = .next s.withNack) ∧
    (∀ x, exec (.reserved80 x) s = .next s.withNack)

/-! ## Telegrams -/

/-- R90: the size of every telegram, and the range of the result. -/
def Obligations.TelegramSizeIsAsTabled : Prop :=
  (∀ t, telegramSize (0x10#8 :: t) = 6) ∧
  (∀ t, telegramSize (0xA2#8 :: t) = 14) ∧
  (∀ t, telegramSize (0xDC#8 :: t) = 3) ∧
  (∀ t, telegramSize (0xE5#8 :: t) = 1) ∧
  (∀ le ler t, telegramSize (0x68#8 :: le :: ler :: t) =
    if le = ler ∧ 4 ≤ le.toNat ∧ le.toNat ≤ 249 then le.toNat + 6 else 0) ∧
  (∀ sd t, sd ≠ 0x10#8 → sd ≠ 0xA2#8 → sd ≠ 0xDC#8 → sd ≠ 0xE5#8 → sd ≠ 0x68#8 → telegramSize (sd :: t) = 0) ∧
  (∀ t, telegramSize t ∈ [0, 1, 3, 6, 14] ∨ (10 ≤ telegramSize t ∧ telegramSize t ≤ 255))

/-- R91: the size depends only on byte 0, and after 0x68 only on bytes 0 to 2. -/
def Obligations.TelegramSizeDependsOnlyOnStart : Prop :=
  ∀ (sd : Byte) (t u : List Byte),
    (sd ≠ 0x68#8 → telegramSize (sd :: t) = telegramSize (sd :: u)) ∧
    telegramSize (0x68#8 :: t) = telegramSize (0x68#8 :: t.take 2)

/-- R89, R90, R110, R111: the start of an outgoing telegram, read by a request in `Idle`: the five valid forms install a
transfer of their size, an invalid one changes nothing (D5, D6; log 12, 19, 20). -/
def Obligations.OutgoingStartDelimiters : Prop :=
  ∀ (k : SendKind) (s : State), s.phyState = .idle →
    exec (.sd1 (.request k)) s = .next (installTransfer k 6 s) ∧
    exec (.sd3 (.request k)) s = .next (installTransfer k 14 s) ∧
    exec (.sd4 (.request k)) s = .next (installTransfer k 3 s) ∧
    exec (.sc (.request k)) s = .next (installTransfer k 1 s) ∧
    (∀ le ler, exec (.sd2 (.request k) le ler) s =
      .next (if le = ler ∧ 4 ≤ le.toNat ∧ le.toNat ≤ 249 then installTransfer k (le.toNat + 6) s else s)) ∧
    (∀ sd, (Instr.sdInvalid (.request k) sd).wf = true → exec (.sdInvalid (.request k) sd) s = .next s)

/-- R89, R90, R116, R117: the start of a reply in `ReceivingSdr`, after its bytes were stored: the receiver takes the
size, completes a single-character reply, and aborts on an invalid start with NACK (D10, D14, D24, D33;
log 12, 20, 21, 23, 29). -/
def Obligations.ReplyStartDelimiters : Prop :=
  ∀ (s : State), s.phyState = .receivingSdr →
    (s.phyCursor = 1 →
      exec (.sd1 .reply) s = .next { s with phySize := 6 } ∧
      exec (.sd3 .reply) s = .next { s with phySize := 14 } ∧
      exec (.sd4 .reply) s = .next { s with phySize := 3 } ∧
      (∀ v, s.txPkt.read 3 = some v → exec (.sc .reply) s =
        .next (({ s with
          phySize := 1, phyState := .idle, rxEn := false, activity := false
          phyTxRef := .noRef, phyRxRef := .noRef } : State).withSrdReply [v])) ∧
      (∀ sd, (Instr.sdInvalid .reply sd).wf = true → exec (.sdInvalid .reply sd) s =
        .next ({ s with
          phySize := 0, phyState := .idle, rxEn := false, activity := false
          phyTxRef := .noRef, phyRxRef := .noRef, blocked := false } : State).withNack)) ∧
    (s.phyCursor = 3 → ∀ le ler,
      exec (.sd2 .reply le ler) s =
        if le = ler ∧ 4 ≤ le.toNat ∧ le.toNat ≤ 249 then .next { s with phySize := le.toNat + 6 }
        else .next ({ s with
          phySize := 0, phyState := .idle, rxEn := false, activity := false
          phyTxRef := .noRef, phyRxRef := .noRef, blocked := false } : State).withNack)

/-! ## UART events -/

/-- R114: the next telegram byte goes to the UART; with the last one the source is disabled and the tail flag set
(D7; log 20). -/
def Obligations.UdreQueuesNextByte : Prop :=
  ∀ (s : State) (v : Byte),
    s.running → s.udreIe = true → s.uartTxq.length < Config.uartTxqCap →
      (s.phyState = .sendingSdr ∨ s.phyState = .sendingSdn) → s.phyCursor < s.phySize → s.phyCursor < 255 →
        s.rxPkt.read (3 + s.phyCursor) = some v →
          exec .uartUdre s = .next
            (if s.phyCursor + 1 = s.phySize then
              { s with uartTxq := s.uartTxq ++ [v], phyCursor := s.phyCursor + 1, udreIe := false, phyTail := true }
            else { s with uartTxq := s.uartTxq ++ [v], phyCursor := s.phyCursor + 1 })

/-- R114, the other branch (D7; log 20): with nothing to send the source is disabled. -/
def Obligations.UdreWithNothingToSend : Prop :=
  ∀ (s : State),
    s.running → s.udreIe = true → s.uartTxq.length < Config.uartTxqCap →
      (s.phyState = .idle ∨ s.phyState = .receivingSdr ∨ s.phySize ≤ s.phyCursor) →
        exec .uartUdre s = .next { s with udreIe := false }

/-- R115, R192: the tail's transmit-complete of an SDR send turns the driver off and the receiver on, and `SdrSent`
clears `blocked` (the guard on the tail flag: D8; log 21). -/
def Obligations.TxcEndsSdrSend : Prop :=
  ∀ (s : State),
    s.running → s.uartTxq = [] → s.phyTail = true → s.phyState = .sendingSdr →
      exec .uartTxc s = .next { s with
        phyTail := false, rts := false, rxEn := true, phyState := .receivingSdr
        phyCursor := 0, phySize := 0, blocked := false }

/-- R115, R191: the tail's transmit-complete of an SDN send returns to `Idle` and queues ACK (D8, D9, D14;
log 21, 23). `phy_rx_ref` stays, as in R115 and against R23's list of writers: the model's choice (log 33). -/
def Obligations.TxcEndsSdnSend : Prop :=
  ∀ (s : State),
    s.running → s.uartTxq = [] → s.phyTail = true → s.phyState = .sendingSdn →
      exec .uartTxc s = .next ({ s with
        phyTail := false, rts := false, phyState := .idle, activity := false
        phyTxRef := .noRef, blocked := false } : State).withAck

/-- R115: outside the tail transmit-complete has no effect; at a tail outside a send it only clears the flag
(D8; log 21). -/
def Obligations.TxcOutsideTail : Prop :=
  ∀ (s : State),
    s.running → s.uartTxq = [] →
      (s.phyTail = false → exec .uartTxc s = .next s) ∧
      (s.phyTail = true → (s.phyState = .idle ∨ s.phyState = .receivingSdr) →
        exec .uartTxc s = .next { s with phyTail := false })

/-- R118: the oldest queued byte reaches the line, recorded beside `rts` (D4; log 18). -/
def Obligations.ShiftPutsByteOnWire : Prop :=
  ∀ (s : State) (v : Byte) (q : List Byte),
    s.running → s.uartTxq = v :: q →
      exec .uartShift s = .next { s with wireLog := s.wireLog ++ [(v, s.rts)], uartTxq := q }

/-- R116: a reply byte is stored at `tx_pkt[3 + phy_cursor]` and counted; the first byte's start delimiter, or the first
three bytes of a 0x68 reply, then run as the instruction the decoder reads from them; any other byte completes the reply
exactly at its resolved size. Outside `ReceivingSdr` the byte is dropped (D11; log 12, 21). -/
def Obligations.RxcStoresAndResolves : Prop :=
  ∀ (s : State) (b : Byte), s.running → s.rxEn = true →
    (s.phyState ≠ .receivingSdr → exec (.uartRxc b) s = .next s) ∧
    (s.phyState = .receivingSdr → s.phyCursor < 255 →
      ∀ u : State, u = { s with txPkt := s.txPkt.write (3 + s.phyCursor) b, phyCursor := s.phyCursor + 1 } →
        (s.phyCursor = 0 → b ≠ 0x68#8 → ∀ i r, decode (.telegramSd .reply) [b] = .ok (i, r) →
          exec (.uartRxc b) s = exec i u) ∧
        (∀ v1, s.phyCursor = 2 → s.txPkt.read 3 = some 0x68#8 → s.txPkt.read 4 = some v1 →
          exec (.uartRxc b) s = exec (.sd2 .reply v1 b) u) ∧
        (∀ v0, (s.phyCursor = 0 → b = 0x68#8) → (s.phyCursor = 2 → s.txPkt.read 3 = some v0 ∧ v0 ≠ 0x68#8) →
          (s.phySize = 0 ∨ s.phyCursor + 1 ≠ s.phySize → exec (.uartRxc b) s = .next u) ∧
          (s.phySize ≠ 0 → s.phyCursor + 1 = s.phySize → exec (.uartRxc b) s = exec (.finish .complete) u)))

/-! ## The SPI exchange -/

/-- R143, R140, R141: while `blocked` is true the byte is dropped: the tick only drains (D3; log 17). -/
def Obligations.BlockedLinkDropsByte : Prop :=
  ∀ (s : State) (b v : Byte),
    s.running → s.blocked = true → s.byteOut = some v → (s.txCursor < s.txLen → s.txCursor < pktMax) →
      exec (.spiXfer b) s = .next (s.afterDrain v)

/-- R144: a 0x00 byte at a packet boundary is discarded; the tick only drains (D3, D13; log 17, 22). -/
def Obligations.LeadingNopIsDiscarded : Prop :=
  ∀ (s : State) (v : Byte),
    s.running → s.rxCursor = 0 → s.byteOut = some v → (s.txCursor < s.txLen → s.txCursor < pktMax) →
      exec (.spiXfer 0x00#8) s = .next (s.afterDrain v)

/-- R145, R146, R147: a byte that does not end a packet is stored at `rx_pkt[rx_cursor]` and counted; the third one
fixes the packet's total length (D3, D13; log 17, 22). -/
def Obligations.SpiByteIsStored : Prop :=
  ∀ (s : State) (b v : Byte),
    s.running → s.blocked = false → s.byteOut = some v → (s.txCursor < s.txLen → s.txCursor < pktMax) →
      s.rxCursor < pktMax →
      (s.rxCursor = 0 → b ≠ 0x00#8) →
        (s.rxCursor ≠ 2 → s.rxCursor < 2 ∨ s.rxCursor + 1 ≠ s.rxExpected →
          exec (.spiXfer b) s =
            .next { s.afterDrain v with
              rxPkt := s.rxPkt.write s.rxCursor b, rxCursor := s.rxCursor + 1 }) ∧
        (∀ size, s.rxCursor = 2 → s.rxPkt.read 1 = some size → size ≠ 0x00#8 →
          exec (.spiXfer b) s =
            .next { s.afterDrain v with
              rxPkt := s.rxPkt.write 2 b, rxCursor := 3, rxExpected := 3 + size.toNat })

/-- R147, R148: the byte that completes a packet stores it, runs the packet's validation and dispatch, and starts the
assembler anew; a stop of the dispatch stops the tick (D3, D39; log 17, 30). -/
def Obligations.LastByteRunsPacket : Prop :=
  ∀ (s u : State) (b v : Byte),
    s.running → s.blocked = false → s.byteOut = some v → (s.txCursor < s.txLen → s.txCursor < pktMax) →
      s.rxCursor < pktMax →
      ((s.rxCursor = 2 ∧ s.rxPkt.read 1 = some 0x00#8 ∧
          u = { s.afterDrain v with rxPkt := s.rxPkt.write 2 b, rxCursor := 3, rxExpected := 3 }) ∨
        (3 ≤ s.rxCursor ∧ s.rxCursor + 1 = s.rxExpected ∧
          u = { s.afterDrain v with rxPkt := s.rxPkt.write s.rxCursor b, rxCursor := s.rxCursor + 1 })) →
        (∀ t, exec .handlePacket u = .next t →
          exec (.spiXfer b) s = .next { t with rxCursor := 0, rxExpected := 0 }) ∧
        (∀ r, exec .handlePacket u = .fault r → exec (.spiXfer b) s = .fault r)

/-- R148: a checksum mismatch on any command but no-op queues NACK and does nothing else; otherwise the packet is
dispatched by its command byte. -/
def Obligations.PacketValidation : Prop :=
  ∀ (s : State) (cmd size cs : Byte) (payload : List Byte),
    s.rxPkt.read 0 = some cmd → s.rxPkt.read 1 = some size → s.rxPkt.read 2 = some cs →
      memReadRange .rxPkt 3 size.toNat s = .ok payload →
        (cmd ≠ 0x00#8 ∧ cs ≠ fcs cmd size payload → exec .handlePacket s = exec (.queueReply .nack) s) ∧
        (¬ (cmd ≠ 0x00#8 ∧ cs ≠ fcs cmd size payload) → exec .handlePacket s = exec (decodeCommand cmd) s)

/-- R148 with the command rules: a packet with a wrong checksum is answered with NACK, a valid informational one changes
nothing, a valid reserved one is answered with NACK (D14, D15; log 23, 24). -/
def Obligations.HandledPacketAnswers : Prop :=
  ∀ (s : State) (cmd size cs : Byte) (payload : List Byte),
    s.rxPkt.read 0 = some cmd → s.rxPkt.read 1 = some size → s.rxPkt.read 2 = some cs →
      memReadRange .rxPkt 3 size.toNat s = .ok payload →
        (cmd ≠ 0x00#8 → cs ≠ fcs cmd size payload → exec .handlePacket s = .next s.withNack) ∧
        (cs = fcs cmd size payload → cmd = 0x04#8 ∨ cmd = 0x06#8 ∨ cmd = 0x07#8 →
          exec .handlePacket s = .next s) ∧
        (cs = fcs cmd size payload → 8 ≤ cmd.toNat → exec .handlePacket s = .next s.withNack)

/-- R87: a no-op with any checksum byte is accepted and changes nothing; and for every command, size and payload a packet
with the checksum `fcs` is valid: it is dispatched. -/
def Obligations.ChecksumRoundTrip : Prop :=
  (∀ (s : State), s.rxPkt.read 0 = some 0x00#8 → exec .handlePacket s = .next s) ∧
  (∀ (s : State) (cmd : Byte) (payload : List Byte), payload.length ≤ 255 →
    memReadRange .rxPkt 0 (3 + payload.length) s =
      .ok ([cmd, BitVec.ofNat 8 payload.length, fcs cmd (BitVec.ofNat 8 payload.length) payload] ++ payload) →
      exec .handlePacket s = exec (decodeCommand cmd) s)

/-- R86: the checksum is the complement of the 8-bit wrap-around sum of the command, the size and the payload; the order
of the bytes does not change it; an empty payload adds nothing; and over a packet in the buffer it faults where byte 0, byte
1 or a payload byte is unwritten (for a payload byte, where byte 2 is written). The three fault clauses rest on the spec's
decision that an unwritten cell faults (R61; D21; log 7). -/
def Obligations.ChecksumIsComplementOfSum : Prop :=
  (∀ (cmd size : Byte) (p : List Byte),
    (fcs cmd size p).toNat = 255 - (cmd.toNat + size.toNat + (p.map BitVec.toNat).sum) % 256) ∧
  (∀ (cmd size : Byte) (p q : List Byte), p.Perm q → fcs cmd size p = fcs cmd size q) ∧
  (∀ (cmd size : Byte), fcs cmd size [] = 0xFF#8 ^^^ (cmd + size)) ∧
  fcs 0x06#8 0x00#8 [] = 0xF9#8 ∧
  (∀ (s : State), s.rxPkt.read 0 = none → exec .handlePacket s = .fault (.unwrittenRead .rxPkt 0)) ∧
  (∀ (s : State) (cmd : Byte), s.rxPkt.read 0 = some cmd → cmd ≠ 0x00#8 → s.rxPkt.read 1 = none →
    exec .handlePacket s = .fault (.unwrittenRead .rxPkt 1)) ∧
  (∀ (s : State) (cmd size cs : Byte) (j : Nat),
    s.rxPkt.read 0 = some cmd → cmd ≠ 0x00#8 → s.rxPkt.read 1 = some size → s.rxPkt.read 2 = some cs →
      j < size.toNat → s.rxPkt.read (3 + j) = none →
        ∃ i, 3 ≤ i ∧ i ≤ 3 + j ∧ s.rxPkt.read i = none ∧ exec .handlePacket s = .fault (.unwrittenRead .rxPkt i))

/-! ## Events of PhyLink and reply packets -/

/-- R191: `SdnComplete` clears `blocked` and queues ACK (D14; log 23). -/
def Obligations.SdnCompleteQueuesAck : Prop :=
  ∀ (s : State) (val : Nat), exec (.sdnComplete val) s = .next ({ s with blocked := false } : State).withAck

/-- R192: `SdrSent` clears `blocked` and writes nothing else. While the reply is pending, in `ReceivingSdr`, a PROFIBUS
request is answered with NACK, and a RESET or a SET_CONFIG with a new baud enum ends the receive. What a baud enum is, when
a set-config is accepted and that it then resets the PHY are the spec's decisions (R163; D16, D17, D18; log 25). -/
def Obligations.SdrSentClearsBlocked : Prop :=
  ∀ (s : State) (val : Nat), exec (.sdrSent val) s = .next { s with blocked := false } ∧
    (s.phyState = .receivingSdr →
      exec .pbSrdReq s = exec (.queueReply .nack) s ∧ exec .pbSdnReq s = exec (.queueReply .nack) s ∧
      (∃ t, exec .reset s = .next t ∧ t.phyState = .idle ∧ t.rxEn = false) ∧
      (∀ (size b ms : Byte) (be : BaudEnum),
        s.rxPkt.read 1 = some size → 3 ≤ size.toNat → s.rxPkt.read 3 = some b → s.rxPkt.read 4 = some ms →
          b.toNat = be.val → be ≠ s.baud →
            ∃ t, exec .setConfig s = .next t ∧ t.phyState = .idle ∧ t.rxEn = false))

/-- R193, R173, R88: `SdrComplete(n)` queues the SRD reply whose payload is the `n` received bytes. -/
def Obligations.SdrCompleteQueuesReply : Prop :=
  ∀ (s : State) (reply : List Byte),
    memReadRange .txPkt 3 reply.length s = .ok reply →
      exec (.sdrComplete reply.length) s = .next (s.withSrdReply reply)

/-- R194: `SdrError` clears `blocked` and queues NACK (D14, D24; log 23, 29). -/
def Obligations.SdrErrorQueuesNack : Prop :=
  ∀ (s : State) (val : Nat), exec (.sdrError val) s = .next ({ s with blocked := false } : State).withNack

/-- R170 to R173: `queue_reply` of each kind (ACK and NACK bytes: D14; log 23). -/
def Obligations.QueueReplyBuildsPacket : Prop :=
  ∀ (s : State),
    exec (.queueReply .ack) s = .next s.withAck ∧
    exec (.queueReply .nack) s = .next s.withNack ∧
    (∀ reply : List Byte, memReadRange .txPkt 3 reply.length s = .ok reply →
      exec (.queueReply (.srdReply reply.length)) s = .next (s.withSrdReply reply))

/-- R170 to R173, R66, R190: an instruction that queues a reply changes no cell of `rx_pkt`, no cell of `tx_pkt` but the
header's three, no PhyLink field, no line and no environment field; with a packet queued its header reads as built. -/
def Obligations.RepliesTouchOnlyHeader : Prop :=
  ∀ (i : Instr) (s t : State),
    (∃ val, i = .sdnComplete val ∨ i = .sdrSent val ∨ i = .sdrComplete val ∨ i = .sdrError val) ∨
      (∃ kind, i = .queueReply kind) ∨
      (∃ low, i = .reserved08 low) ∨ (∃ low, i = .reserved10 low) ∨ (∃ low, i = .reserved20 low) ∨
      (∃ low, i = .reserved40 low) ∨ (∃ low, i = .reserved80 low) →
    exec i s = .next t →
      (∀ a, t.rxPkt.read a = s.rxPkt.read a) ∧
      (∀ a, 3 ≤ a → t.txPkt.read a = s.txPkt.read a) ∧
      t.phyState = s.phyState ∧ t.phyTxRef = s.phyTxRef ∧ t.phyRxRef = s.phyRxRef ∧ t.phySize = s.phySize ∧
      t.phyCursor = s.phyCursor ∧ t.phyTail = s.phyTail ∧ t.rts = s.rts ∧ t.rxEn = s.rxEn ∧ t.udreIe = s.udreIe ∧
      t.activity = s.activity ∧ t.baud = s.baud ∧ t.rxCursor = s.rxCursor ∧ t.rxExpected = s.rxExpected ∧
      t.cfgRxTimeoutMs = s.cfgRxTimeoutMs ∧ t.uartTxq = s.uartTxq ∧ t.wireLog = s.wireLog ∧ t.hostLog = s.hostLog ∧
      t.fault = s.fault ∧ t.booted = s.booted ∧ t.script = s.script ∧
      (i = .queueReply .ack →
        t.txPkt.read 0 = some 0x06#8 ∧ t.txPkt.read 1 = some 0x00#8 ∧ t.txPkt.read 2 = some 0xF9#8) ∧
      (i = .queueReply .nack →
        t.txPkt.read 0 = some 0x07#8 ∧ t.txPkt.read 1 = some 0x00#8 ∧ t.txPkt.read 2 = some 0xF8#8)

/-! ## Entry points -/

/-- R110, R111: `request_sdr` and `request_sdn` install the transfer, or return `Busy` or `InvalidArgument` and change
nothing (D5, D6; log 13, 19, 20). -/
def Obligations.EntryRequests : Prop :=
  ∀ (s : State),
    (s.phyState ≠ .idle →
      (∀ k, request k s = .ok (.busy, s)) ∧ exec .requestSdr s = .next s ∧ exec .requestSdn s = .next s) ∧
    (∀ sd t, s.phyState = .idle → s.rxPkt.read 3 = some sd →
      memReadRange .rxPkt 3 (if sd = 0x68#8 then 3 else 1) s = .ok t →
        (telegramSize t = 0 →
          (∀ k, request k s = .ok (.invalidArgument, s)) ∧ exec .requestSdr s = .next s ∧
            exec .requestSdn s = .next s) ∧
        (telegramSize t ≠ 0 →
          (∀ k, request k s = .ok (.ok, installTransfer k (telegramSize t) s)) ∧
          exec .requestSdr s = .next { s with
            phyState := .sendingSdr, phyTxRef := .hostRxPayload, phyRxRef := .hostTxPayload
            phySize := telegramSize t, phyCursor := 0, phyTail := false
            rxEn := false, rts := true, activity := true, udreIe := true } ∧
          exec .requestSdn s = .next { s with
            phyState := .sendingSdn, phyTxRef := .hostRxPayload, phyRxRef := .noRef
            phySize := telegramSize t, phyCursor := 0, phyTail := false
            rxEn := false, rts := true, activity := true, udreIe := true }))

/-- R112, R113: `phy_reset` forces `Idle` from any state; `phy_reinit(be)` does so and sets the rate
(D12, D18, D33; log 20, 25). -/
def Obligations.PhyResetAndReinit : Prop :=
  ∀ (s : State),
    exec .phyReset s = .next { s with
      phyState := .idle, phyTxRef := .noRef, phyRxRef := .noRef, phyTail := false
      rts := false, rxEn := false, udreIe := false, activity := false } ∧
    (∀ be, exec (.phyReinit be) s = .next { s with
      phyState := .idle, phyTxRef := .noRef, phyRxRef := .noRef, phyTail := false
      rts := false, rxEn := false, udreIe := false, activity := false, baud := be })

/-- R174: `hostlink_reset` zeroes the cursors, lengths and flags and makes every cell of both buffers unwritten; nothing
else changes (D19; log 26). -/
def Obligations.HostlinkResetClearsLink : Prop :=
  ∀ (s : State), ∃ t, exec .hostlinkReset s = .next t ∧
    (∀ a, t.rxPkt.read a = none) ∧ (∀ a, t.txPkt.read a = none) ∧
    t = { s with
      rxCursor := 0, rxExpected := 0, txCursor := 0, txLen := 0, signal := false, blocked := false
      rxPkt := t.rxPkt, txPkt := t.txPkt }

/-- R117: `finish` returns to `Idle`, disables the receiver and raises its event: `SdrComplete` with the received byte
count, or `SdrError` (D10, D24, D33; log 20, 21, 29). -/
def Obligations.FinishEndsReceive : Prop :=
  ∀ (s u : State),
    u = { s with
      phyState := .idle, rxEn := false, activity := false, phyTxRef := .noRef, phyRxRef := .noRef } →
      (∀ reply : List Byte, s.phyCursor = reply.length → memReadRange .txPkt 3 reply.length s = .ok reply →
        exec (.finish .complete) s = .next (u.withSrdReply reply)) ∧
      exec (.finish .error) s = .next ({ u with blocked := false } : State).withNack

/-- R141: `drain` gives the byte at `tx_cursor` and drops the data-ready line with the last one; once the packet is
exhausted it gives 0x00 and changes nothing. -/
def Obligations.DrainGivesNextByte : Prop :=
  ∀ (s : State),
    (∀ v, s.txCursor < s.txLen → s.txCursor < pktMax → s.txPkt.read s.txCursor = some v →
      drainByte s = .ok (v, { s with
        txCursor := s.txCursor + 1
        signal := if s.txCursor + 1 = s.txLen then false else s.signal }) ∧
      exec .drain s = .next { s with
        txCursor := s.txCursor + 1
        signal := if s.txCursor + 1 = s.txLen then false else s.signal }) ∧
    (s.txLen ≤ s.txCursor → drainByte s = .ok (0x00#8, s) ∧ exec .drain s = .next s) ∧
    (s.txCursor < s.txLen → s.txCursor < pktMax → s.txPkt.read s.txCursor = none →
      exec .drain s = .fault (.unwrittenRead .txPkt s.txCursor))

/-! ## Frames of the events -/

/-- R66, R114 to R118: no UART event changes a cell of `rx_pkt`, and none changes a cell of `tx_pkt` but the header's
three and, for a received byte, `tx_pkt[3 + phy_cursor]`; UDRE and SHIFT change no cell at all; none changes the receive
assembler, the baud rate or the host's bytes. -/
def Obligations.UartEventsFrame : Prop :=
  ∀ (s t : State),
    (∀ i b, i = .uartUdre ∨ i = .uartTxc ∨ i = .uartRxc b ∨ i = .uartShift → exec i s = .next t →
      (∀ a, t.rxPkt.read a = s.rxPkt.read a) ∧
      t.rxCursor = s.rxCursor ∧ t.rxExpected = s.rxExpected ∧ t.baud = s.baud ∧
      t.cfgRxTimeoutMs = s.cfgRxTimeoutMs ∧ t.hostLog = s.hostLog ∧ t.fault = s.fault ∧
      t.booted = s.booted ∧ t.script = s.script) ∧
    (∀ i, i = .uartUdre ∨ i = .uartShift → exec i s = .next t →
      (∀ a, t.txPkt.read a = s.txPkt.read a) ∧ t.txCursor = s.txCursor ∧ t.txLen = s.txLen ∧
      t.signal = s.signal ∧ t.blocked = s.blocked) ∧
    (exec .uartTxc s = .next t → ∀ a, 3 ≤ a → t.txPkt.read a = s.txPkt.read a) ∧
    (∀ b, exec (.uartRxc b) s = .next t →
      ∀ a, 3 ≤ a → a ≠ 3 + s.phyCursor → t.txPkt.read a = s.txPkt.read a)

/-- R143, R66, R219: a host byte while `blocked` is true changes no PhyLink field, no line, no receive cell and no
environment field but the host's log: nothing the host does can stop a telegram being sent. -/
def Obligations.HostCannotTouchSend : Prop :=
  ∀ (s t : State) (b : Byte), s.blocked = true → exec (.spiXfer b) s = .next t →
    (∀ a, t.rxPkt.read a = s.rxPkt.read a) ∧ (∀ a, t.txPkt.read a = s.txPkt.read a) ∧
    t.rxCursor = s.rxCursor ∧ t.rxExpected = s.rxExpected ∧ t.blocked = true ∧
    t.phyState = s.phyState ∧ t.phyTxRef = s.phyTxRef ∧ t.phyRxRef = s.phyRxRef ∧ t.phySize = s.phySize ∧
    t.phyCursor = s.phyCursor ∧ t.phyTail = s.phyTail ∧ t.rts = s.rts ∧ t.rxEn = s.rxEn ∧ t.udreIe = s.udreIe ∧
    t.activity = s.activity ∧ t.baud = s.baud ∧ t.cfgRxTimeoutMs = s.cfgRxTimeoutMs ∧
    t.uartTxq = s.uartTxq ∧ t.wireLog = s.wireLog

/-- R43, R44, R118, R140, R141: a step adds at most one byte to the line, the oldest queued one beside `rts`, and at most
one byte to the host's log, the next one of the queued packet, or 0x00 once that is exhausted; neither log ever loses a
byte; and no byte enters the UART's queue but the outgoing telegram's next one (D3, D4; log 17, 18). -/
def Obligations.LinksMoveOneByteInOrder : Prop :=
  ∀ (s t : State), step s = .next t →
    ((t.wireLog = s.wireLog ∧ t.uartTxq = s.uartTxq) ∨
      (∃ v, s.uartTxq = v :: t.uartTxq ∧ t.wireLog = s.wireLog ++ [(v, s.rts)]) ∨
      (∃ v, s.rxPkt.read (3 + s.phyCursor) = some v ∧ t.uartTxq = s.uartTxq ++ [v] ∧ t.wireLog = s.wireLog)) ∧
    (t.hostLog = s.hostLog ∨ ∃ v, s.byteOut = some v ∧ t.hostLog = s.hostLog ++ [v])

/-! ## Invariants of the machine -/

/-- The power-on state meets the invariant (R47; D22; log 28). -/
def Obligations.PowerOnMeetsInvariants : Prop := State.reset.Inv

/-- R47: every step keeps the invariants, items 1 to 7 with the bounds of R24, R25, R34, R35, R37, R38, R42 and R60. -/
def Obligations.StepKeepsInvariants : Prop :=
  ∀ (s t : State), s.Inv → step s = .next t → t.Inv

/-- R203, R62, R237: where the invariants hold, the only fault a step can record is a read of an unwritten byte of the
outgoing telegram in `rx_pkt`: the next byte of a send, or, in `Idle`, one of the bytes that give a requested telegram's
size. No other read is of an unwritten cell, and no index leaves the buffers (D21; log 7, 8). -/
def Obligations.OnlyOutgoingTelegramFaults : Prop :=
  ∀ (s t : State) (r : Fault), s.Inv → s.fault = none → step s = .next t → t.fault = some r →
    ∃ i, r = .unwrittenRead .rxPkt i ∧ s.rxPkt.read i = none ∧
      ((s.phyState.sending = true ∧ s.phyCursor < s.phySize ∧ i = 3 + s.phyCursor) ∨
        (s.phyState = .idle ∧ 3 ≤ i ∧ i < 6))

/-! ## Whole transfers -/

/-- R122, R241: an accepted send whose bytes are written reaches the line whole and in order, every byte with `rts` as it
stood, and then `SdrSent` or `SdnComplete`: the UART's events `udre; shift` once per byte and `txc` end it
(D4, D8, D9; log 18, 21), coming in that order in the script (the model's field: log 1). -/
def Obligations.SendReachesWire : Prop :=
  ∀ (s : State) (k : SendKind) (bs rest : List Byte),
    s.running → s.phyState = sendState k → bs ≠ [] → bs.length ≤ 255 →
      s.phySize = bs.length → s.phyCursor = 0 → s.phyTail = false → s.udreIe = true → s.uartTxq = [] →
        memReadRange .rxPkt 3 bs.length s = .ok bs → s.script = sendScript bs.length ++ rest →
          ∃ t, runSteps (2 * bs.length + 1) s = .next t ∧
            t.wireLog = s.wireLog ++ bs.map (fun b => (b, s.rts)) ∧ t.uartTxq = [] ∧
            t.phyState = (match k with | .sdr => PhyState.receivingSdr | .sdn => PhyState.idle) ∧
            t.rxEn = (match k with | .sdr => true | .sdn => s.rxEn) ∧
            t.rts = false ∧ t.blocked = false ∧ t.udreIe = false ∧ t.phyTail = false ∧
            t.rxPkt = s.rxPkt ∧ t.hostLog = s.hostLog ∧ t.fault = none ∧ t.script = rest

/-- R121, R116, R173: a reply of exactly its own size is received whole: no step before the last byte leaves
`ReceivingSdr` or changes the data-ready line, and the last one queues the SRD reply packet of those bytes
(D10, D33; log 20, 21). The bytes come one after the other in the script (the model's field: log 1). -/
def Obligations.ReplyIsReceivedWhole : Prop :=
  ∀ (s : State) (bs rest : List Byte),
    s.running → s.phyState = .receivingSdr → s.rxEn = true → s.phyCursor = 0 → s.phySize = 0 →
      bs ≠ [] → telegramSize bs = bs.length → s.script = replyScript bs ++ rest →
        (∀ m, m < bs.length → ∃ t, runSteps m s = .next t ∧ t.phyState = .receivingSdr ∧ t.signal = s.signal ∧
          t.txLen = s.txLen ∧ t.phyCursor = m) ∧
        ∃ t, runSteps bs.length s = .next t ∧
          t.phyState = .idle ∧ t.rxEn = false ∧ t.phyCursor = bs.length ∧ t.phySize = bs.length ∧
          t.signal = true ∧ t.txCursor = 0 ∧ t.txLen = 3 + bs.length ∧ t.script = rest ∧
          memReadRange .txPkt 0 (3 + bs.length) t =
            .ok ([0x04#8, BitVec.ofNat 8 bs.length, fcs 0x04#8 (BitVec.ofNat 8 bs.length) bs] ++ bs)

/-- R141, R144, R239: a host that polls with 0x00 at a packet boundary gets the queued packet's bytes in order, one a
tick, and the data-ready line drops with the last; nothing else changes (D3, D13; log 17, 22). The ticks
come one after the other in the script (the model's field: log 1). -/
def Obligations.PollingDrainsPacket : Prop :=
  ∀ (s : State) (bs rest : List Byte),
    s.running → s.rxCursor = 0 → bs ≠ [] → s.txCursor = 0 → s.txLen = bs.length →
      memReadRange .txPkt 0 bs.length s = .ok bs →
        s.script = spiScript (List.replicate bs.length 0x00#8) ++ rest →
          runSteps bs.length s =
            .next { s with
              txCursor := bs.length, signal := false, hostLog := s.hostLog ++ bs, script := rest }
end

