-- ==== Sys2Proof/Laws/Memory.lean ====
section
/-! SUPPORT. The laws of the packet buffers: reading after writing, the canonical form kept by every memory operation,
and what MemRead and MemWrite can answer (spec/20_memory.md R61). -/

namespace Sys2Proof.Machine

@[simp] theorem Memory.read_nil (i : Nat) : Memory.read [] i = none := rfl

/-- A read of the cell just written gives the byte written. -/
@[simp] theorem Memory.read_write_same (m : Memory) (i : Nat) (v : Byte) : (m.write i v).read i = some v := by
  induction m with
  | nil => simp [Memory.write, Memory.read]
  | cons c m ih =>
    obtain ⟨a, w⟩ := c
    simp only [Memory.write]
    split
    · simp [Memory.read]
    · split
      · simp [Memory.read]
      · rename_i h1 h2
        have h3 : a ≠ i := fun h => h2 h.symm
        simp [Memory.read, h3, ih]

/-- A write leaves every other cell alone. -/
theorem Memory.read_write_other (m : Memory) {i j : Nat} (v : Byte) (h : j ≠ i) :
    (m.write i v).read j = m.read j := by
  have h' : i ≠ j := Ne.symm h
  induction m with
  | nil => simp [Memory.write, Memory.read, h']
  | cons c m ih =>
    obtain ⟨a, w⟩ := c
    simp only [Memory.write]
    split
    · simp [Memory.read, h']
    · split
      · rename_i h1 h2
        subst h2
        simp [Memory.read, h']
      · simp [Memory.read, ih]

/-- Both cases of a read after a write. -/
theorem Memory.read_write (m : Memory) (i j : Nat) (v : Byte) :
    (m.write i v).read j = if j = i then some v else m.read j := by
  split
  · next h => subst h; exact Memory.read_write_same m j v
  · next h => exact Memory.read_write_other m v h

/-- Every entry of a written memory is the new cell or an old entry. -/
theorem Memory.mem_write {m : Memory} {i : Nat} {v : Byte} {c : Host.Cell} (h : c ∈ m.write i v) :
    c = (i, v) ∨ c ∈ m := by
  induction m with
  | nil => simpa [Memory.write] using h
  | cons d m ih =>
    obtain ⟨a, w⟩ := d
    simp only [Memory.write] at h
    split at h
    · simpa using h
    · split at h
      · rcases List.mem_cons.1 h with h | h
        · exact .inl h
        · exact .inr (List.mem_cons_of_mem _ h)
      · rcases List.mem_cons.1 h with h | h
        · exact .inr (h ▸ List.mem_cons_self)
        · rcases ih h with h | h
          · exact .inl h
          · exact .inr (List.mem_cons_of_mem _ h)

/-- A write inside the buffer keeps the canonical form. -/
theorem Memory.write_wf {m : Memory} {i : Nat} (v : Byte) (hm : m.wf) (hi : i < pktMax) : (m.write i v).wf := by
  obtain ⟨hp, hb⟩ := hm
  refine ⟨?_, ?_⟩
  · clear hb
    induction m with
    | nil => simp [Memory.write]
    | cons d m ih =>
      obtain ⟨a, w⟩ := d
      have hlt := (List.pairwise_cons.1 hp).1
      have htl := (List.pairwise_cons.1 hp).2
      simp only [Memory.write]
      split
      · next h =>
        refine List.pairwise_cons.2 ⟨?_, hp⟩
        intro c hc
        rcases List.mem_cons.1 hc with hc | hc
        · subst hc; exact h
        · exact Nat.lt_trans h (hlt c hc)
      · split
        · next h => subst h; exact List.pairwise_cons.2 ⟨hlt, htl⟩
        · next h1 h2 =>
          refine List.pairwise_cons.2 ⟨?_, ih htl⟩
          intro c hc
          rcases Memory.mem_write hc with hc | hc
          · subst hc; show a < i; omega
          · exact hlt c hc
  · intro c hc
    rcases Memory.mem_write hc with hc | hc
    · subst hc; exact hi
    · exact hb c hc

/-- The cleared buffer is in its canonical form. -/
theorem Memory.nil_wf : Memory.wf [] := by simp [Memory.wf]

/-- The power-on memories are in their canonical form. -/
theorem reset_buffers_wf : State.reset.rxPkt.wf ∧ State.reset.txPkt.wf := ⟨Memory.nil_wf, Memory.nil_wf⟩

/-- `MemRead` answers the byte of a written cell inside the buffer, and nothing else is an answer. -/
theorem memRead_ok_iff {b : Buf} {i : Nat} {s : State} {v : Byte} :
    memRead b i s = .ok v ↔ i < pktMax ∧ (s.buf b).read i = some v := by
  unfold memRead
  split
  · split <;> simp_all
  · simp_all

/-- The fault of a read inside the buffer is that its cell is unwritten. -/
theorem memRead_error {b : Buf} {i : Nat} {s : State} {r : Fault} (h : memRead b i s = .error r) :
    (i < pktMax ∧ (s.buf b).read i = none ∧ r = .unwrittenRead b i) ∨ (pktMax ≤ i ∧ r = .noSuchCell b i) := by
  unfold memRead at h
  split at h
  · split at h
    · cases h
    · cases h; exact .inl ⟨‹_›, ‹_›, rfl⟩
  · cases h; exact .inr ⟨by omega, rfl⟩

/-- `MemWrite` inside the buffer writes that one cell. -/
theorem memWrite_ok_iff {b : Buf} {i : Nat} {v : Byte} {s t : State} :
    memWrite b i v s = .ok t ↔ i < pktMax ∧ t = s.setCell b i v := by
  unfold memWrite
  split
  · simp_all [eq_comm]
  · simp_all

/-- A range read that answers gives one byte for each of its cells. -/
theorem memReadRange_length {b : Buf} {i n : Nat} {s : State} {vs : List Byte} (h : memReadRange b i n s = .ok vs) :
    vs.length = n := by
  induction n generalizing i vs with
  | zero => simp only [memReadRange] at h; cases h; rfl
  | succ n ih =>
    simp only [memReadRange] at h
    split at h
    · cases h
    · split at h
      · cases h
      · cases h; simp [ih ‹_›]

/-- A range of written cells inside the buffer reads without a fault. -/
theorem memReadRange_isOk {b : Buf} {i n : Nat} {s : State} (hi : i + n ≤ pktMax)
    (hw : ∀ j, i ≤ j → j < i + n → ((s.buf b).read j).isSome = true) : ∃ vs, memReadRange b i n s = .ok vs := by
  induction n generalizing i with
  | zero => exact ⟨[], rfl⟩
  | succ n ih =>
    obtain ⟨v, hv⟩ := Option.isSome_iff_exists.1 (hw i (Nat.le_refl i) (by omega))
    obtain ⟨vs, hvs⟩ := ih (i := i + 1) (by omega) fun j h1 h2 => hw j (by omega) (by omega)
    refine ⟨v :: vs, ?_⟩
    simp only [memReadRange, memRead_ok_iff.2 ⟨by omega, hv⟩, hvs]

/-- A range read depends on its own cells only. -/
theorem memReadRange_congr {b : Buf} {i n : Nat} {s t : State}
    (h : ∀ j, i ≤ j → j < i + n → (t.buf b).read j = (s.buf b).read j) :
    memReadRange b i n t = memReadRange b i n s := by
  induction n generalizing i with
  | zero => rfl
  | succ n ih =>
    have h1 : memRead b i t = memRead b i s := by
      unfold memRead; rw [h i (Nat.le_refl i) (by omega)]
    have h2 := ih (i := i + 1) fun j h1 h2 => h j (by omega) (by omega)
    simp only [memReadRange, h1, h2]

/-- Where a range read faults, the fault names a cell of the range. -/
theorem memReadRange_error {b : Buf} {i n : Nat} {s : State} {r : Fault} (h : memReadRange b i n s = .error r) :
    ∃ j, i ≤ j ∧ j < i + n ∧ memRead b j s = .error r := by
  induction n generalizing i with
  | zero => simp only [memReadRange] at h; cases h
  | succ n ih =>
    simp only [memReadRange] at h
    split at h
    · next hr => cases h; exact ⟨i, Nat.le_refl i, by omega, hr⟩
    · split at h
      · next hr =>
        cases h
        obtain ⟨j, h1, h2, h3⟩ := ih hr
        exact ⟨j, by omega, by omega, h3⟩
      · cases h

end Sys2Proof.Machine
end

