-- ==== Sys2Proof/Laws/State.lean ====
section
/-! SUPPORT. One lemma per field per state update, each true by rfl: no later proof unfolds a record update. -/

namespace Sys2Proof.Machine

/-! ## installTransfer -/

@[simp] theorem installTransfer_phyState (k : SendKind) (n : Nat) (s : State) : (installTransfer k n s).phyState = sendState k := rfl
@[simp] theorem installTransfer_phyTxRef (k : SendKind) (n : Nat) (s : State) : (installTransfer k n s).phyTxRef = .hostRxPayload := rfl
@[simp] theorem installTransfer_phyRxRef (k : SendKind) (n : Nat) (s : State) : (installTransfer k n s).phyRxRef = replyRef k := rfl
@[simp] theorem installTransfer_phySize (k : SendKind) (n : Nat) (s : State) : (installTransfer k n s).phySize = n := rfl
@[simp] theorem installTransfer_phyCursor (k : SendKind) (n : Nat) (s : State) : (installTransfer k n s).phyCursor = 0 := rfl
@[simp] theorem installTransfer_phyTail (k : SendKind) (n : Nat) (s : State) : (installTransfer k n s).phyTail = false := rfl
@[simp] theorem installTransfer_rts (k : SendKind) (n : Nat) (s : State) : (installTransfer k n s).rts = true := rfl
@[simp] theorem installTransfer_rxEn (k : SendKind) (n : Nat) (s : State) : (installTransfer k n s).rxEn = false := rfl
@[simp] theorem installTransfer_udreIe (k : SendKind) (n : Nat) (s : State) : (installTransfer k n s).udreIe = true := rfl
@[simp] theorem installTransfer_activity (k : SendKind) (n : Nat) (s : State) : (installTransfer k n s).activity = true := rfl
@[simp] theorem installTransfer_baud (k : SendKind) (n : Nat) (s : State) : (installTransfer k n s).baud = s.baud := rfl
@[simp] theorem installTransfer_rxPkt (k : SendKind) (n : Nat) (s : State) : (installTransfer k n s).rxPkt = s.rxPkt := rfl
@[simp] theorem installTransfer_rxCursor (k : SendKind) (n : Nat) (s : State) : (installTransfer k n s).rxCursor = s.rxCursor := rfl
@[simp] theorem installTransfer_rxExpected (k : SendKind) (n : Nat) (s : State) : (installTransfer k n s).rxExpected = s.rxExpected := rfl
@[simp] theorem installTransfer_txPkt (k : SendKind) (n : Nat) (s : State) : (installTransfer k n s).txPkt = s.txPkt := rfl
@[simp] theorem installTransfer_txCursor (k : SendKind) (n : Nat) (s : State) : (installTransfer k n s).txCursor = s.txCursor := rfl
@[simp] theorem installTransfer_txLen (k : SendKind) (n : Nat) (s : State) : (installTransfer k n s).txLen = s.txLen := rfl
@[simp] theorem installTransfer_blocked (k : SendKind) (n : Nat) (s : State) : (installTransfer k n s).blocked = s.blocked := rfl
@[simp] theorem installTransfer_signal (k : SendKind) (n : Nat) (s : State) : (installTransfer k n s).signal = s.signal := rfl
@[simp] theorem installTransfer_cfgRxTimeoutMs (k : SendKind) (n : Nat) (s : State) : (installTransfer k n s).cfgRxTimeoutMs = s.cfgRxTimeoutMs := rfl
@[simp] theorem installTransfer_uartTxq (k : SendKind) (n : Nat) (s : State) : (installTransfer k n s).uartTxq = s.uartTxq := rfl
@[simp] theorem installTransfer_wireLog (k : SendKind) (n : Nat) (s : State) : (installTransfer k n s).wireLog = s.wireLog := rfl
@[simp] theorem installTransfer_hostLog (k : SendKind) (n : Nat) (s : State) : (installTransfer k n s).hostLog = s.hostLog := rfl
@[simp] theorem installTransfer_fault (k : SendKind) (n : Nat) (s : State) : (installTransfer k n s).fault = s.fault := rfl
@[simp] theorem installTransfer_booted (k : SendKind) (n : Nat) (s : State) : (installTransfer k n s).booted = s.booted := rfl
@[simp] theorem installTransfer_script (k : SendKind) (n : Nat) (s : State) : (installTransfer k n s).script = s.script := rfl

/-! ## phyReset -/

@[simp] theorem phyReset_phyState (s : State) : (phyReset s).phyState = .idle := rfl
@[simp] theorem phyReset_phyTxRef (s : State) : (phyReset s).phyTxRef = .noRef := rfl
@[simp] theorem phyReset_phyRxRef (s : State) : (phyReset s).phyRxRef = .noRef := rfl
@[simp] theorem phyReset_phySize (s : State) : (phyReset s).phySize = s.phySize := rfl
@[simp] theorem phyReset_phyCursor (s : State) : (phyReset s).phyCursor = s.phyCursor := rfl
@[simp] theorem phyReset_phyTail (s : State) : (phyReset s).phyTail = false := rfl
@[simp] theorem phyReset_rts (s : State) : (phyReset s).rts = false := rfl
@[simp] theorem phyReset_rxEn (s : State) : (phyReset s).rxEn = false := rfl
@[simp] theorem phyReset_udreIe (s : State) : (phyReset s).udreIe = false := rfl
@[simp] theorem phyReset_activity (s : State) : (phyReset s).activity = false := rfl
@[simp] theorem phyReset_baud (s : State) : (phyReset s).baud = s.baud := rfl
@[simp] theorem phyReset_rxPkt (s : State) : (phyReset s).rxPkt = s.rxPkt := rfl
@[simp] theorem phyReset_rxCursor (s : State) : (phyReset s).rxCursor = s.rxCursor := rfl
@[simp] theorem phyReset_rxExpected (s : State) : (phyReset s).rxExpected = s.rxExpected := rfl
@[simp] theorem phyReset_txPkt (s : State) : (phyReset s).txPkt = s.txPkt := rfl
@[simp] theorem phyReset_txCursor (s : State) : (phyReset s).txCursor = s.txCursor := rfl
@[simp] theorem phyReset_txLen (s : State) : (phyReset s).txLen = s.txLen := rfl
@[simp] theorem phyReset_blocked (s : State) : (phyReset s).blocked = s.blocked := rfl
@[simp] theorem phyReset_signal (s : State) : (phyReset s).signal = s.signal := rfl
@[simp] theorem phyReset_cfgRxTimeoutMs (s : State) : (phyReset s).cfgRxTimeoutMs = s.cfgRxTimeoutMs := rfl
@[simp] theorem phyReset_uartTxq (s : State) : (phyReset s).uartTxq = s.uartTxq := rfl
@[simp] theorem phyReset_wireLog (s : State) : (phyReset s).wireLog = s.wireLog := rfl
@[simp] theorem phyReset_hostLog (s : State) : (phyReset s).hostLog = s.hostLog := rfl
@[simp] theorem phyReset_fault (s : State) : (phyReset s).fault = s.fault := rfl
@[simp] theorem phyReset_booted (s : State) : (phyReset s).booted = s.booted := rfl
@[simp] theorem phyReset_script (s : State) : (phyReset s).script = s.script := rfl

/-! ## queueTelegramByte -/

@[simp] theorem queueTelegramByte_phyState (v : Byte) (s : State) : (queueTelegramByte v s).phyState = s.phyState := rfl
@[simp] theorem queueTelegramByte_phyTxRef (v : Byte) (s : State) : (queueTelegramByte v s).phyTxRef = s.phyTxRef := rfl
@[simp] theorem queueTelegramByte_phyRxRef (v : Byte) (s : State) : (queueTelegramByte v s).phyRxRef = s.phyRxRef := rfl
@[simp] theorem queueTelegramByte_phySize (v : Byte) (s : State) : (queueTelegramByte v s).phySize = s.phySize := rfl
@[simp] theorem queueTelegramByte_phyCursor (v : Byte) (s : State) : (queueTelegramByte v s).phyCursor = s.phyCursor + 1 := rfl
@[simp] theorem queueTelegramByte_phyTail (v : Byte) (s : State) : (queueTelegramByte v s).phyTail = if s.phyCursor + 1 = s.phySize then true else s.phyTail := rfl
@[simp] theorem queueTelegramByte_rts (v : Byte) (s : State) : (queueTelegramByte v s).rts = s.rts := rfl
@[simp] theorem queueTelegramByte_rxEn (v : Byte) (s : State) : (queueTelegramByte v s).rxEn = s.rxEn := rfl
@[simp] theorem queueTelegramByte_udreIe (v : Byte) (s : State) : (queueTelegramByte v s).udreIe = if s.phyCursor + 1 = s.phySize then false else s.udreIe := rfl
@[simp] theorem queueTelegramByte_activity (v : Byte) (s : State) : (queueTelegramByte v s).activity = s.activity := rfl
@[simp] theorem queueTelegramByte_baud (v : Byte) (s : State) : (queueTelegramByte v s).baud = s.baud := rfl
@[simp] theorem queueTelegramByte_rxPkt (v : Byte) (s : State) : (queueTelegramByte v s).rxPkt = s.rxPkt := rfl
@[simp] theorem queueTelegramByte_rxCursor (v : Byte) (s : State) : (queueTelegramByte v s).rxCursor = s.rxCursor := rfl
@[simp] theorem queueTelegramByte_rxExpected (v : Byte) (s : State) : (queueTelegramByte v s).rxExpected = s.rxExpected := rfl
@[simp] theorem queueTelegramByte_txPkt (v : Byte) (s : State) : (queueTelegramByte v s).txPkt = s.txPkt := rfl
@[simp] theorem queueTelegramByte_txCursor (v : Byte) (s : State) : (queueTelegramByte v s).txCursor = s.txCursor := rfl
@[simp] theorem queueTelegramByte_txLen (v : Byte) (s : State) : (queueTelegramByte v s).txLen = s.txLen := rfl
@[simp] theorem queueTelegramByte_blocked (v : Byte) (s : State) : (queueTelegramByte v s).blocked = s.blocked := rfl
@[simp] theorem queueTelegramByte_signal (v : Byte) (s : State) : (queueTelegramByte v s).signal = s.signal := rfl
@[simp] theorem queueTelegramByte_cfgRxTimeoutMs (v : Byte) (s : State) : (queueTelegramByte v s).cfgRxTimeoutMs = s.cfgRxTimeoutMs := rfl
@[simp] theorem queueTelegramByte_uartTxq (v : Byte) (s : State) : (queueTelegramByte v s).uartTxq = s.uartTxq ++ [v] := rfl
@[simp] theorem queueTelegramByte_wireLog (v : Byte) (s : State) : (queueTelegramByte v s).wireLog = s.wireLog := rfl
@[simp] theorem queueTelegramByte_hostLog (v : Byte) (s : State) : (queueTelegramByte v s).hostLog = s.hostLog := rfl
@[simp] theorem queueTelegramByte_fault (v : Byte) (s : State) : (queueTelegramByte v s).fault = s.fault := rfl
@[simp] theorem queueTelegramByte_booted (v : Byte) (s : State) : (queueTelegramByte v s).booted = s.booted := rfl
@[simp] theorem queueTelegramByte_script (v : Byte) (s : State) : (queueTelegramByte v s).script = s.script := rfl

/-! ## startReceive -/

@[simp] theorem startReceive_phyState (s : State) : (startReceive s).phyState = .receivingSdr := rfl
@[simp] theorem startReceive_phyTxRef (s : State) : (startReceive s).phyTxRef = s.phyTxRef := rfl
@[simp] theorem startReceive_phyRxRef (s : State) : (startReceive s).phyRxRef = s.phyRxRef := rfl
@[simp] theorem startReceive_phySize (s : State) : (startReceive s).phySize = 0 := rfl
@[simp] theorem startReceive_phyCursor (s : State) : (startReceive s).phyCursor = 0 := rfl
@[simp] theorem startReceive_phyTail (s : State) : (startReceive s).phyTail = false := rfl
@[simp] theorem startReceive_rts (s : State) : (startReceive s).rts = false := rfl
@[simp] theorem startReceive_rxEn (s : State) : (startReceive s).rxEn = true := rfl
@[simp] theorem startReceive_udreIe (s : State) : (startReceive s).udreIe = s.udreIe := rfl
@[simp] theorem startReceive_activity (s : State) : (startReceive s).activity = s.activity := rfl
@[simp] theorem startReceive_baud (s : State) : (startReceive s).baud = s.baud := rfl
@[simp] theorem startReceive_rxPkt (s : State) : (startReceive s).rxPkt = s.rxPkt := rfl
@[simp] theorem startReceive_rxCursor (s : State) : (startReceive s).rxCursor = s.rxCursor := rfl
@[simp] theorem startReceive_rxExpected (s : State) : (startReceive s).rxExpected = s.rxExpected := rfl
@[simp] theorem startReceive_txPkt (s : State) : (startReceive s).txPkt = s.txPkt := rfl
@[simp] theorem startReceive_txCursor (s : State) : (startReceive s).txCursor = s.txCursor := rfl
@[simp] theorem startReceive_txLen (s : State) : (startReceive s).txLen = s.txLen := rfl
@[simp] theorem startReceive_blocked (s : State) : (startReceive s).blocked = s.blocked := rfl
@[simp] theorem startReceive_signal (s : State) : (startReceive s).signal = s.signal := rfl
@[simp] theorem startReceive_cfgRxTimeoutMs (s : State) : (startReceive s).cfgRxTimeoutMs = s.cfgRxTimeoutMs := rfl
@[simp] theorem startReceive_uartTxq (s : State) : (startReceive s).uartTxq = s.uartTxq := rfl
@[simp] theorem startReceive_wireLog (s : State) : (startReceive s).wireLog = s.wireLog := rfl
@[simp] theorem startReceive_hostLog (s : State) : (startReceive s).hostLog = s.hostLog := rfl
@[simp] theorem startReceive_fault (s : State) : (startReceive s).fault = s.fault := rfl
@[simp] theorem startReceive_booted (s : State) : (startReceive s).booted = s.booted := rfl
@[simp] theorem startReceive_script (s : State) : (startReceive s).script = s.script := rfl

/-! ## endSdn -/

@[simp] theorem endSdn_phyState (s : State) : (endSdn s).phyState = .idle := rfl
@[simp] theorem endSdn_phyTxRef (s : State) : (endSdn s).phyTxRef = .noRef := rfl
@[simp] theorem endSdn_phyRxRef (s : State) : (endSdn s).phyRxRef = s.phyRxRef := rfl
@[simp] theorem endSdn_phySize (s : State) : (endSdn s).phySize = s.phySize := rfl
@[simp] theorem endSdn_phyCursor (s : State) : (endSdn s).phyCursor = s.phyCursor := rfl
@[simp] theorem endSdn_phyTail (s : State) : (endSdn s).phyTail = false := rfl
@[simp] theorem endSdn_rts (s : State) : (endSdn s).rts = false := rfl
@[simp] theorem endSdn_rxEn (s : State) : (endSdn s).rxEn = s.rxEn := rfl
@[simp] theorem endSdn_udreIe (s : State) : (endSdn s).udreIe = s.udreIe := rfl
@[simp] theorem endSdn_activity (s : State) : (endSdn s).activity = false := rfl
@[simp] theorem endSdn_baud (s : State) : (endSdn s).baud = s.baud := rfl
@[simp] theorem endSdn_rxPkt (s : State) : (endSdn s).rxPkt = s.rxPkt := rfl
@[simp] theorem endSdn_rxCursor (s : State) : (endSdn s).rxCursor = s.rxCursor := rfl
@[simp] theorem endSdn_rxExpected (s : State) : (endSdn s).rxExpected = s.rxExpected := rfl
@[simp] theorem endSdn_txPkt (s : State) : (endSdn s).txPkt = s.txPkt := rfl
@[simp] theorem endSdn_txCursor (s : State) : (endSdn s).txCursor = s.txCursor := rfl
@[simp] theorem endSdn_txLen (s : State) : (endSdn s).txLen = s.txLen := rfl
@[simp] theorem endSdn_blocked (s : State) : (endSdn s).blocked = s.blocked := rfl
@[simp] theorem endSdn_signal (s : State) : (endSdn s).signal = s.signal := rfl
@[simp] theorem endSdn_cfgRxTimeoutMs (s : State) : (endSdn s).cfgRxTimeoutMs = s.cfgRxTimeoutMs := rfl
@[simp] theorem endSdn_uartTxq (s : State) : (endSdn s).uartTxq = s.uartTxq := rfl
@[simp] theorem endSdn_wireLog (s : State) : (endSdn s).wireLog = s.wireLog := rfl
@[simp] theorem endSdn_hostLog (s : State) : (endSdn s).hostLog = s.hostLog := rfl
@[simp] theorem endSdn_fault (s : State) : (endSdn s).fault = s.fault := rfl
@[simp] theorem endSdn_booted (s : State) : (endSdn s).booted = s.booted := rfl
@[simp] theorem endSdn_script (s : State) : (endSdn s).script = s.script := rfl

/-! ## endReceive -/

@[simp] theorem endReceive_phyState (s : State) : (endReceive s).phyState = .idle := rfl
@[simp] theorem endReceive_phyTxRef (s : State) : (endReceive s).phyTxRef = .noRef := rfl
@[simp] theorem endReceive_phyRxRef (s : State) : (endReceive s).phyRxRef = .noRef := rfl
@[simp] theorem endReceive_phySize (s : State) : (endReceive s).phySize = s.phySize := rfl
@[simp] theorem endReceive_phyCursor (s : State) : (endReceive s).phyCursor = s.phyCursor := rfl
@[simp] theorem endReceive_phyTail (s : State) : (endReceive s).phyTail = s.phyTail := rfl
@[simp] theorem endReceive_rts (s : State) : (endReceive s).rts = s.rts := rfl
@[simp] theorem endReceive_rxEn (s : State) : (endReceive s).rxEn = false := rfl
@[simp] theorem endReceive_udreIe (s : State) : (endReceive s).udreIe = s.udreIe := rfl
@[simp] theorem endReceive_activity (s : State) : (endReceive s).activity = false := rfl
@[simp] theorem endReceive_baud (s : State) : (endReceive s).baud = s.baud := rfl
@[simp] theorem endReceive_rxPkt (s : State) : (endReceive s).rxPkt = s.rxPkt := rfl
@[simp] theorem endReceive_rxCursor (s : State) : (endReceive s).rxCursor = s.rxCursor := rfl
@[simp] theorem endReceive_rxExpected (s : State) : (endReceive s).rxExpected = s.rxExpected := rfl
@[simp] theorem endReceive_txPkt (s : State) : (endReceive s).txPkt = s.txPkt := rfl
@[simp] theorem endReceive_txCursor (s : State) : (endReceive s).txCursor = s.txCursor := rfl
@[simp] theorem endReceive_txLen (s : State) : (endReceive s).txLen = s.txLen := rfl
@[simp] theorem endReceive_blocked (s : State) : (endReceive s).blocked = s.blocked := rfl
@[simp] theorem endReceive_signal (s : State) : (endReceive s).signal = s.signal := rfl
@[simp] theorem endReceive_cfgRxTimeoutMs (s : State) : (endReceive s).cfgRxTimeoutMs = s.cfgRxTimeoutMs := rfl
@[simp] theorem endReceive_uartTxq (s : State) : (endReceive s).uartTxq = s.uartTxq := rfl
@[simp] theorem endReceive_wireLog (s : State) : (endReceive s).wireLog = s.wireLog := rfl
@[simp] theorem endReceive_hostLog (s : State) : (endReceive s).hostLog = s.hostLog := rfl
@[simp] theorem endReceive_fault (s : State) : (endReceive s).fault = s.fault := rfl
@[simp] theorem endReceive_booted (s : State) : (endReceive s).booted = s.booted := rfl
@[simp] theorem endReceive_script (s : State) : (endReceive s).script = s.script := rfl

/-! ## hostlinkReset -/

@[simp] theorem hostlinkReset_phyState (s : State) : (hostlinkReset s).phyState = s.phyState := rfl
@[simp] theorem hostlinkReset_phyTxRef (s : State) : (hostlinkReset s).phyTxRef = s.phyTxRef := rfl
@[simp] theorem hostlinkReset_phyRxRef (s : State) : (hostlinkReset s).phyRxRef = s.phyRxRef := rfl
@[simp] theorem hostlinkReset_phySize (s : State) : (hostlinkReset s).phySize = s.phySize := rfl
@[simp] theorem hostlinkReset_phyCursor (s : State) : (hostlinkReset s).phyCursor = s.phyCursor := rfl
@[simp] theorem hostlinkReset_phyTail (s : State) : (hostlinkReset s).phyTail = s.phyTail := rfl
@[simp] theorem hostlinkReset_rts (s : State) : (hostlinkReset s).rts = s.rts := rfl
@[simp] theorem hostlinkReset_rxEn (s : State) : (hostlinkReset s).rxEn = s.rxEn := rfl
@[simp] theorem hostlinkReset_udreIe (s : State) : (hostlinkReset s).udreIe = s.udreIe := rfl
@[simp] theorem hostlinkReset_activity (s : State) : (hostlinkReset s).activity = s.activity := rfl
@[simp] theorem hostlinkReset_baud (s : State) : (hostlinkReset s).baud = s.baud := rfl
@[simp] theorem hostlinkReset_rxPkt (s : State) : (hostlinkReset s).rxPkt = [] := rfl
@[simp] theorem hostlinkReset_rxCursor (s : State) : (hostlinkReset s).rxCursor = 0 := rfl
@[simp] theorem hostlinkReset_rxExpected (s : State) : (hostlinkReset s).rxExpected = 0 := rfl
@[simp] theorem hostlinkReset_txPkt (s : State) : (hostlinkReset s).txPkt = [] := rfl
@[simp] theorem hostlinkReset_txCursor (s : State) : (hostlinkReset s).txCursor = 0 := rfl
@[simp] theorem hostlinkReset_txLen (s : State) : (hostlinkReset s).txLen = 0 := rfl
@[simp] theorem hostlinkReset_blocked (s : State) : (hostlinkReset s).blocked = false := rfl
@[simp] theorem hostlinkReset_signal (s : State) : (hostlinkReset s).signal = false := rfl
@[simp] theorem hostlinkReset_cfgRxTimeoutMs (s : State) : (hostlinkReset s).cfgRxTimeoutMs = s.cfgRxTimeoutMs := rfl
@[simp] theorem hostlinkReset_uartTxq (s : State) : (hostlinkReset s).uartTxq = s.uartTxq := rfl
@[simp] theorem hostlinkReset_wireLog (s : State) : (hostlinkReset s).wireLog = s.wireLog := rfl
@[simp] theorem hostlinkReset_hostLog (s : State) : (hostlinkReset s).hostLog = s.hostLog := rfl
@[simp] theorem hostlinkReset_fault (s : State) : (hostlinkReset s).fault = s.fault := rfl
@[simp] theorem hostlinkReset_booted (s : State) : (hostlinkReset s).booted = s.booted := rfl
@[simp] theorem hostlinkReset_script (s : State) : (hostlinkReset s).script = s.script := rfl

/-! ## markQueued -/

@[simp] theorem markQueued_phyState (len : Nat) (s : State) : (markQueued len s).phyState = s.phyState := rfl
@[simp] theorem markQueued_phyTxRef (len : Nat) (s : State) : (markQueued len s).phyTxRef = s.phyTxRef := rfl
@[simp] theorem markQueued_phyRxRef (len : Nat) (s : State) : (markQueued len s).phyRxRef = s.phyRxRef := rfl
@[simp] theorem markQueued_phySize (len : Nat) (s : State) : (markQueued len s).phySize = s.phySize := rfl
@[simp] theorem markQueued_phyCursor (len : Nat) (s : State) : (markQueued len s).phyCursor = s.phyCursor := rfl
@[simp] theorem markQueued_phyTail (len : Nat) (s : State) : (markQueued len s).phyTail = s.phyTail := rfl
@[simp] theorem markQueued_rts (len : Nat) (s : State) : (markQueued len s).rts = s.rts := rfl
@[simp] theorem markQueued_rxEn (len : Nat) (s : State) : (markQueued len s).rxEn = s.rxEn := rfl
@[simp] theorem markQueued_udreIe (len : Nat) (s : State) : (markQueued len s).udreIe = s.udreIe := rfl
@[simp] theorem markQueued_activity (len : Nat) (s : State) : (markQueued len s).activity = s.activity := rfl
@[simp] theorem markQueued_baud (len : Nat) (s : State) : (markQueued len s).baud = s.baud := rfl
@[simp] theorem markQueued_rxPkt (len : Nat) (s : State) : (markQueued len s).rxPkt = s.rxPkt := rfl
@[simp] theorem markQueued_rxCursor (len : Nat) (s : State) : (markQueued len s).rxCursor = s.rxCursor := rfl
@[simp] theorem markQueued_rxExpected (len : Nat) (s : State) : (markQueued len s).rxExpected = s.rxExpected := rfl
@[simp] theorem markQueued_txPkt (len : Nat) (s : State) : (markQueued len s).txPkt = s.txPkt := rfl
@[simp] theorem markQueued_txCursor (len : Nat) (s : State) : (markQueued len s).txCursor = 0 := rfl
@[simp] theorem markQueued_txLen (len : Nat) (s : State) : (markQueued len s).txLen = len := rfl
@[simp] theorem markQueued_blocked (len : Nat) (s : State) : (markQueued len s).blocked = s.blocked := rfl
@[simp] theorem markQueued_signal (len : Nat) (s : State) : (markQueued len s).signal = true := rfl
@[simp] theorem markQueued_cfgRxTimeoutMs (len : Nat) (s : State) : (markQueued len s).cfgRxTimeoutMs = s.cfgRxTimeoutMs := rfl
@[simp] theorem markQueued_uartTxq (len : Nat) (s : State) : (markQueued len s).uartTxq = s.uartTxq := rfl
@[simp] theorem markQueued_wireLog (len : Nat) (s : State) : (markQueued len s).wireLog = s.wireLog := rfl
@[simp] theorem markQueued_hostLog (len : Nat) (s : State) : (markQueued len s).hostLog = s.hostLog := rfl
@[simp] theorem markQueued_fault (len : Nat) (s : State) : (markQueued len s).fault = s.fault := rfl
@[simp] theorem markQueued_booted (len : Nat) (s : State) : (markQueued len s).booted = s.booted := rfl
@[simp] theorem markQueued_script (len : Nat) (s : State) : (markQueued len s).script = s.script := rfl

/-! ## markDrained -/

@[simp] theorem markDrained_phyState (s : State) : (markDrained s).phyState = s.phyState := rfl
@[simp] theorem markDrained_phyTxRef (s : State) : (markDrained s).phyTxRef = s.phyTxRef := rfl
@[simp] theorem markDrained_phyRxRef (s : State) : (markDrained s).phyRxRef = s.phyRxRef := rfl
@[simp] theorem markDrained_phySize (s : State) : (markDrained s).phySize = s.phySize := rfl
@[simp] theorem markDrained_phyCursor (s : State) : (markDrained s).phyCursor = s.phyCursor := rfl
@[simp] theorem markDrained_phyTail (s : State) : (markDrained s).phyTail = s.phyTail := rfl
@[simp] theorem markDrained_rts (s : State) : (markDrained s).rts = s.rts := rfl
@[simp] theorem markDrained_rxEn (s : State) : (markDrained s).rxEn = s.rxEn := rfl
@[simp] theorem markDrained_udreIe (s : State) : (markDrained s).udreIe = s.udreIe := rfl
@[simp] theorem markDrained_activity (s : State) : (markDrained s).activity = s.activity := rfl
@[simp] theorem markDrained_baud (s : State) : (markDrained s).baud = s.baud := rfl
@[simp] theorem markDrained_rxPkt (s : State) : (markDrained s).rxPkt = s.rxPkt := rfl
@[simp] theorem markDrained_rxCursor (s : State) : (markDrained s).rxCursor = s.rxCursor := rfl
@[simp] theorem markDrained_rxExpected (s : State) : (markDrained s).rxExpected = s.rxExpected := rfl
@[simp] theorem markDrained_txPkt (s : State) : (markDrained s).txPkt = s.txPkt := rfl
@[simp] theorem markDrained_txCursor (s : State) : (markDrained s).txCursor = s.txCursor + 1 := rfl
@[simp] theorem markDrained_txLen (s : State) : (markDrained s).txLen = s.txLen := rfl
@[simp] theorem markDrained_blocked (s : State) : (markDrained s).blocked = s.blocked := rfl
@[simp] theorem markDrained_signal (s : State) : (markDrained s).signal = if s.txCursor + 1 = s.txLen then false else s.signal := rfl
@[simp] theorem markDrained_cfgRxTimeoutMs (s : State) : (markDrained s).cfgRxTimeoutMs = s.cfgRxTimeoutMs := rfl
@[simp] theorem markDrained_uartTxq (s : State) : (markDrained s).uartTxq = s.uartTxq := rfl
@[simp] theorem markDrained_wireLog (s : State) : (markDrained s).wireLog = s.wireLog := rfl
@[simp] theorem markDrained_hostLog (s : State) : (markDrained s).hostLog = s.hostLog := rfl
@[simp] theorem markDrained_fault (s : State) : (markDrained s).fault = s.fault := rfl
@[simp] theorem markDrained_booted (s : State) : (markDrained s).booted = s.booted := rfl
@[simp] theorem markDrained_script (s : State) : (markDrained s).script = s.script := rfl

/-! ## putHeader -/

@[simp] theorem putHeader_phyState (cmd size cs : Byte) (s : State) : (putHeader cmd size cs s).phyState = s.phyState := rfl
@[simp] theorem putHeader_phyTxRef (cmd size cs : Byte) (s : State) : (putHeader cmd size cs s).phyTxRef = s.phyTxRef := rfl
@[simp] theorem putHeader_phyRxRef (cmd size cs : Byte) (s : State) : (putHeader cmd size cs s).phyRxRef = s.phyRxRef := rfl
@[simp] theorem putHeader_phySize (cmd size cs : Byte) (s : State) : (putHeader cmd size cs s).phySize = s.phySize := rfl
@[simp] theorem putHeader_phyCursor (cmd size cs : Byte) (s : State) : (putHeader cmd size cs s).phyCursor = s.phyCursor := rfl
@[simp] theorem putHeader_phyTail (cmd size cs : Byte) (s : State) : (putHeader cmd size cs s).phyTail = s.phyTail := rfl
@[simp] theorem putHeader_rts (cmd size cs : Byte) (s : State) : (putHeader cmd size cs s).rts = s.rts := rfl
@[simp] theorem putHeader_rxEn (cmd size cs : Byte) (s : State) : (putHeader cmd size cs s).rxEn = s.rxEn := rfl
@[simp] theorem putHeader_udreIe (cmd size cs : Byte) (s : State) : (putHeader cmd size cs s).udreIe = s.udreIe := rfl
@[simp] theorem putHeader_activity (cmd size cs : Byte) (s : State) : (putHeader cmd size cs s).activity = s.activity := rfl
@[simp] theorem putHeader_baud (cmd size cs : Byte) (s : State) : (putHeader cmd size cs s).baud = s.baud := rfl
@[simp] theorem putHeader_rxPkt (cmd size cs : Byte) (s : State) : (putHeader cmd size cs s).rxPkt = s.rxPkt := rfl
@[simp] theorem putHeader_rxCursor (cmd size cs : Byte) (s : State) : (putHeader cmd size cs s).rxCursor = s.rxCursor := rfl
@[simp] theorem putHeader_rxExpected (cmd size cs : Byte) (s : State) : (putHeader cmd size cs s).rxExpected = s.rxExpected := rfl
@[simp] theorem putHeader_txPkt (cmd size cs : Byte) (s : State) : (putHeader cmd size cs s).txPkt = ((s.txPkt.write 0 cmd).write 1 size).write 2 cs := rfl
@[simp] theorem putHeader_txCursor (cmd size cs : Byte) (s : State) : (putHeader cmd size cs s).txCursor = s.txCursor := rfl
@[simp] theorem putHeader_txLen (cmd size cs : Byte) (s : State) : (putHeader cmd size cs s).txLen = s.txLen := rfl
@[simp] theorem putHeader_blocked (cmd size cs : Byte) (s : State) : (putHeader cmd size cs s).blocked = s.blocked := rfl
@[simp] theorem putHeader_signal (cmd size cs : Byte) (s : State) : (putHeader cmd size cs s).signal = s.signal := rfl
@[simp] theorem putHeader_cfgRxTimeoutMs (cmd size cs : Byte) (s : State) : (putHeader cmd size cs s).cfgRxTimeoutMs = s.cfgRxTimeoutMs := rfl
@[simp] theorem putHeader_uartTxq (cmd size cs : Byte) (s : State) : (putHeader cmd size cs s).uartTxq = s.uartTxq := rfl
@[simp] theorem putHeader_wireLog (cmd size cs : Byte) (s : State) : (putHeader cmd size cs s).wireLog = s.wireLog := rfl
@[simp] theorem putHeader_hostLog (cmd size cs : Byte) (s : State) : (putHeader cmd size cs s).hostLog = s.hostLog := rfl
@[simp] theorem putHeader_fault (cmd size cs : Byte) (s : State) : (putHeader cmd size cs s).fault = s.fault := rfl
@[simp] theorem putHeader_booted (cmd size cs : Byte) (s : State) : (putHeader cmd size cs s).booted = s.booted := rfl
@[simp] theorem putHeader_script (cmd size cs : Byte) (s : State) : (putHeader cmd size cs s).script = s.script := rfl

/-! ## withReply -/

@[simp] theorem withReply_phyState (s : State) (cmd size cs : Byte) (len : Nat) : (s.withReply cmd size cs len).phyState = s.phyState := rfl
@[simp] theorem withReply_phyTxRef (s : State) (cmd size cs : Byte) (len : Nat) : (s.withReply cmd size cs len).phyTxRef = s.phyTxRef := rfl
@[simp] theorem withReply_phyRxRef (s : State) (cmd size cs : Byte) (len : Nat) : (s.withReply cmd size cs len).phyRxRef = s.phyRxRef := rfl
@[simp] theorem withReply_phySize (s : State) (cmd size cs : Byte) (len : Nat) : (s.withReply cmd size cs len).phySize = s.phySize := rfl
@[simp] theorem withReply_phyCursor (s : State) (cmd size cs : Byte) (len : Nat) : (s.withReply cmd size cs len).phyCursor = s.phyCursor := rfl
@[simp] theorem withReply_phyTail (s : State) (cmd size cs : Byte) (len : Nat) : (s.withReply cmd size cs len).phyTail = s.phyTail := rfl
@[simp] theorem withReply_rts (s : State) (cmd size cs : Byte) (len : Nat) : (s.withReply cmd size cs len).rts = s.rts := rfl
@[simp] theorem withReply_rxEn (s : State) (cmd size cs : Byte) (len : Nat) : (s.withReply cmd size cs len).rxEn = s.rxEn := rfl
@[simp] theorem withReply_udreIe (s : State) (cmd size cs : Byte) (len : Nat) : (s.withReply cmd size cs len).udreIe = s.udreIe := rfl
@[simp] theorem withReply_activity (s : State) (cmd size cs : Byte) (len : Nat) : (s.withReply cmd size cs len).activity = s.activity := rfl
@[simp] theorem withReply_baud (s : State) (cmd size cs : Byte) (len : Nat) : (s.withReply cmd size cs len).baud = s.baud := rfl
@[simp] theorem withReply_rxPkt (s : State) (cmd size cs : Byte) (len : Nat) : (s.withReply cmd size cs len).rxPkt = s.rxPkt := rfl
@[simp] theorem withReply_rxCursor (s : State) (cmd size cs : Byte) (len : Nat) : (s.withReply cmd size cs len).rxCursor = s.rxCursor := rfl
@[simp] theorem withReply_rxExpected (s : State) (cmd size cs : Byte) (len : Nat) : (s.withReply cmd size cs len).rxExpected = s.rxExpected := rfl
@[simp] theorem withReply_txPkt (s : State) (cmd size cs : Byte) (len : Nat) : (s.withReply cmd size cs len).txPkt = ((s.txPkt.write 0 cmd).write 1 size).write 2 cs := rfl
@[simp] theorem withReply_txCursor (s : State) (cmd size cs : Byte) (len : Nat) : (s.withReply cmd size cs len).txCursor = 0 := rfl
@[simp] theorem withReply_txLen (s : State) (cmd size cs : Byte) (len : Nat) : (s.withReply cmd size cs len).txLen = len := rfl
@[simp] theorem withReply_blocked (s : State) (cmd size cs : Byte) (len : Nat) : (s.withReply cmd size cs len).blocked = s.blocked := rfl
@[simp] theorem withReply_signal (s : State) (cmd size cs : Byte) (len : Nat) : (s.withReply cmd size cs len).signal = true := rfl
@[simp] theorem withReply_cfgRxTimeoutMs (s : State) (cmd size cs : Byte) (len : Nat) : (s.withReply cmd size cs len).cfgRxTimeoutMs = s.cfgRxTimeoutMs := rfl
@[simp] theorem withReply_uartTxq (s : State) (cmd size cs : Byte) (len : Nat) : (s.withReply cmd size cs len).uartTxq = s.uartTxq := rfl
@[simp] theorem withReply_wireLog (s : State) (cmd size cs : Byte) (len : Nat) : (s.withReply cmd size cs len).wireLog = s.wireLog := rfl
@[simp] theorem withReply_hostLog (s : State) (cmd size cs : Byte) (len : Nat) : (s.withReply cmd size cs len).hostLog = s.hostLog := rfl
@[simp] theorem withReply_fault (s : State) (cmd size cs : Byte) (len : Nat) : (s.withReply cmd size cs len).fault = s.fault := rfl
@[simp] theorem withReply_booted (s : State) (cmd size cs : Byte) (len : Nat) : (s.withReply cmd size cs len).booted = s.booted := rfl
@[simp] theorem withReply_script (s : State) (cmd size cs : Byte) (len : Nat) : (s.withReply cmd size cs len).script = s.script := rfl

/-! ## setCell -/

@[simp] theorem setCell_rxPkt_rxPkt (s : State) (i : Nat) (v : Byte) : (s.setCell .rxPkt i v).rxPkt = s.rxPkt.write i v := rfl
@[simp] theorem setCell_rxPkt_txPkt (s : State) (i : Nat) (v : Byte) : (s.setCell .rxPkt i v).txPkt = s.txPkt := rfl
@[simp] theorem setCell_txPkt_txPkt (s : State) (i : Nat) (v : Byte) : (s.setCell .txPkt i v).txPkt = s.txPkt.write i v := rfl
@[simp] theorem setCell_txPkt_rxPkt (s : State) (i : Nat) (v : Byte) : (s.setCell .txPkt i v).rxPkt = s.rxPkt := rfl
@[simp] theorem setCell_phyState (s : State) (b : Buf) (i : Nat) (v : Byte) : (s.setCell b i v).phyState = s.phyState := by cases b <;> rfl
@[simp] theorem setCell_phyTxRef (s : State) (b : Buf) (i : Nat) (v : Byte) : (s.setCell b i v).phyTxRef = s.phyTxRef := by cases b <;> rfl
@[simp] theorem setCell_phyRxRef (s : State) (b : Buf) (i : Nat) (v : Byte) : (s.setCell b i v).phyRxRef = s.phyRxRef := by cases b <;> rfl
@[simp] theorem setCell_phySize (s : State) (b : Buf) (i : Nat) (v : Byte) : (s.setCell b i v).phySize = s.phySize := by cases b <;> rfl
@[simp] theorem setCell_phyCursor (s : State) (b : Buf) (i : Nat) (v : Byte) : (s.setCell b i v).phyCursor = s.phyCursor := by cases b <;> rfl
@[simp] theorem setCell_phyTail (s : State) (b : Buf) (i : Nat) (v : Byte) : (s.setCell b i v).phyTail = s.phyTail := by cases b <;> rfl
@[simp] theorem setCell_rts (s : State) (b : Buf) (i : Nat) (v : Byte) : (s.setCell b i v).rts = s.rts := by cases b <;> rfl
@[simp] theorem setCell_rxEn (s : State) (b : Buf) (i : Nat) (v : Byte) : (s.setCell b i v).rxEn = s.rxEn := by cases b <;> rfl
@[simp] theorem setCell_udreIe (s : State) (b : Buf) (i : Nat) (v : Byte) : (s.setCell b i v).udreIe = s.udreIe := by cases b <;> rfl
@[simp] theorem setCell_activity (s : State) (b : Buf) (i : Nat) (v : Byte) : (s.setCell b i v).activity = s.activity := by cases b <;> rfl
@[simp] theorem setCell_baud (s : State) (b : Buf) (i : Nat) (v : Byte) : (s.setCell b i v).baud = s.baud := by cases b <;> rfl
@[simp] theorem setCell_rxCursor (s : State) (b : Buf) (i : Nat) (v : Byte) : (s.setCell b i v).rxCursor = s.rxCursor := by cases b <;> rfl
@[simp] theorem setCell_rxExpected (s : State) (b : Buf) (i : Nat) (v : Byte) : (s.setCell b i v).rxExpected = s.rxExpected := by cases b <;> rfl
@[simp] theorem setCell_txCursor (s : State) (b : Buf) (i : Nat) (v : Byte) : (s.setCell b i v).txCursor = s.txCursor := by cases b <;> rfl
@[simp] theorem setCell_txLen (s : State) (b : Buf) (i : Nat) (v : Byte) : (s.setCell b i v).txLen = s.txLen := by cases b <;> rfl
@[simp] theorem setCell_blocked (s : State) (b : Buf) (i : Nat) (v : Byte) : (s.setCell b i v).blocked = s.blocked := by cases b <;> rfl
@[simp] theorem setCell_signal (s : State) (b : Buf) (i : Nat) (v : Byte) : (s.setCell b i v).signal = s.signal := by cases b <;> rfl
@[simp] theorem setCell_cfgRxTimeoutMs (s : State) (b : Buf) (i : Nat) (v : Byte) : (s.setCell b i v).cfgRxTimeoutMs = s.cfgRxTimeoutMs := by cases b <;> rfl
@[simp] theorem setCell_uartTxq (s : State) (b : Buf) (i : Nat) (v : Byte) : (s.setCell b i v).uartTxq = s.uartTxq := by cases b <;> rfl
@[simp] theorem setCell_wireLog (s : State) (b : Buf) (i : Nat) (v : Byte) : (s.setCell b i v).wireLog = s.wireLog := by cases b <;> rfl
@[simp] theorem setCell_hostLog (s : State) (b : Buf) (i : Nat) (v : Byte) : (s.setCell b i v).hostLog = s.hostLog := by cases b <;> rfl
@[simp] theorem setCell_fault (s : State) (b : Buf) (i : Nat) (v : Byte) : (s.setCell b i v).fault = s.fault := by cases b <;> rfl
@[simp] theorem setCell_booted (s : State) (b : Buf) (i : Nat) (v : Byte) : (s.setCell b i v).booted = s.booted := by cases b <;> rfl
@[simp] theorem setCell_script (s : State) (b : Buf) (i : Nat) (v : Byte) : (s.setCell b i v).script = s.script := by cases b <;> rfl

/-! ## setBlocked -/

@[simp] theorem setBlocked_phyState (b : Bool) (s : State) : (setBlocked b s).phyState = s.phyState := rfl
@[simp] theorem setBlocked_phyTxRef (b : Bool) (s : State) : (setBlocked b s).phyTxRef = s.phyTxRef := rfl
@[simp] theorem setBlocked_phyRxRef (b : Bool) (s : State) : (setBlocked b s).phyRxRef = s.phyRxRef := rfl
@[simp] theorem setBlocked_phySize (b : Bool) (s : State) : (setBlocked b s).phySize = s.phySize := rfl
@[simp] theorem setBlocked_phyCursor (b : Bool) (s : State) : (setBlocked b s).phyCursor = s.phyCursor := rfl
@[simp] theorem setBlocked_phyTail (b : Bool) (s : State) : (setBlocked b s).phyTail = s.phyTail := rfl
@[simp] theorem setBlocked_rts (b : Bool) (s : State) : (setBlocked b s).rts = s.rts := rfl
@[simp] theorem setBlocked_rxEn (b : Bool) (s : State) : (setBlocked b s).rxEn = s.rxEn := rfl
@[simp] theorem setBlocked_udreIe (b : Bool) (s : State) : (setBlocked b s).udreIe = s.udreIe := rfl
@[simp] theorem setBlocked_activity (b : Bool) (s : State) : (setBlocked b s).activity = s.activity := rfl
@[simp] theorem setBlocked_baud (b : Bool) (s : State) : (setBlocked b s).baud = s.baud := rfl
@[simp] theorem setBlocked_rxPkt (b : Bool) (s : State) : (setBlocked b s).rxPkt = s.rxPkt := rfl
@[simp] theorem setBlocked_rxCursor (b : Bool) (s : State) : (setBlocked b s).rxCursor = s.rxCursor := rfl
@[simp] theorem setBlocked_rxExpected (b : Bool) (s : State) : (setBlocked b s).rxExpected = s.rxExpected := rfl
@[simp] theorem setBlocked_txPkt (b : Bool) (s : State) : (setBlocked b s).txPkt = s.txPkt := rfl
@[simp] theorem setBlocked_txCursor (b : Bool) (s : State) : (setBlocked b s).txCursor = s.txCursor := rfl
@[simp] theorem setBlocked_txLen (b : Bool) (s : State) : (setBlocked b s).txLen = s.txLen := rfl
@[simp] theorem setBlocked_blocked (b : Bool) (s : State) : (setBlocked b s).blocked = b := rfl
@[simp] theorem setBlocked_signal (b : Bool) (s : State) : (setBlocked b s).signal = s.signal := rfl
@[simp] theorem setBlocked_cfgRxTimeoutMs (b : Bool) (s : State) : (setBlocked b s).cfgRxTimeoutMs = s.cfgRxTimeoutMs := rfl
@[simp] theorem setBlocked_uartTxq (b : Bool) (s : State) : (setBlocked b s).uartTxq = s.uartTxq := rfl
@[simp] theorem setBlocked_wireLog (b : Bool) (s : State) : (setBlocked b s).wireLog = s.wireLog := rfl
@[simp] theorem setBlocked_hostLog (b : Bool) (s : State) : (setBlocked b s).hostLog = s.hostLog := rfl
@[simp] theorem setBlocked_fault (b : Bool) (s : State) : (setBlocked b s).fault = s.fault := rfl
@[simp] theorem setBlocked_booted (b : Bool) (s : State) : (setBlocked b s).booted = s.booted := rfl
@[simp] theorem setBlocked_script (b : Bool) (s : State) : (setBlocked b s).script = s.script := rfl

/-! ## setBaud -/

@[simp] theorem setBaud_phyState (be : BaudEnum) (s : State) : (setBaud be s).phyState = s.phyState := rfl
@[simp] theorem setBaud_phyTxRef (be : BaudEnum) (s : State) : (setBaud be s).phyTxRef = s.phyTxRef := rfl
@[simp] theorem setBaud_phyRxRef (be : BaudEnum) (s : State) : (setBaud be s).phyRxRef = s.phyRxRef := rfl
@[simp] theorem setBaud_phySize (be : BaudEnum) (s : State) : (setBaud be s).phySize = s.phySize := rfl
@[simp] theorem setBaud_phyCursor (be : BaudEnum) (s : State) : (setBaud be s).phyCursor = s.phyCursor := rfl
@[simp] theorem setBaud_phyTail (be : BaudEnum) (s : State) : (setBaud be s).phyTail = s.phyTail := rfl
@[simp] theorem setBaud_rts (be : BaudEnum) (s : State) : (setBaud be s).rts = s.rts := rfl
@[simp] theorem setBaud_rxEn (be : BaudEnum) (s : State) : (setBaud be s).rxEn = s.rxEn := rfl
@[simp] theorem setBaud_udreIe (be : BaudEnum) (s : State) : (setBaud be s).udreIe = s.udreIe := rfl
@[simp] theorem setBaud_activity (be : BaudEnum) (s : State) : (setBaud be s).activity = s.activity := rfl
@[simp] theorem setBaud_baud (be : BaudEnum) (s : State) : (setBaud be s).baud = be := rfl
@[simp] theorem setBaud_rxPkt (be : BaudEnum) (s : State) : (setBaud be s).rxPkt = s.rxPkt := rfl
@[simp] theorem setBaud_rxCursor (be : BaudEnum) (s : State) : (setBaud be s).rxCursor = s.rxCursor := rfl
@[simp] theorem setBaud_rxExpected (be : BaudEnum) (s : State) : (setBaud be s).rxExpected = s.rxExpected := rfl
@[simp] theorem setBaud_txPkt (be : BaudEnum) (s : State) : (setBaud be s).txPkt = s.txPkt := rfl
@[simp] theorem setBaud_txCursor (be : BaudEnum) (s : State) : (setBaud be s).txCursor = s.txCursor := rfl
@[simp] theorem setBaud_txLen (be : BaudEnum) (s : State) : (setBaud be s).txLen = s.txLen := rfl
@[simp] theorem setBaud_blocked (be : BaudEnum) (s : State) : (setBaud be s).blocked = s.blocked := rfl
@[simp] theorem setBaud_signal (be : BaudEnum) (s : State) : (setBaud be s).signal = s.signal := rfl
@[simp] theorem setBaud_cfgRxTimeoutMs (be : BaudEnum) (s : State) : (setBaud be s).cfgRxTimeoutMs = s.cfgRxTimeoutMs := rfl
@[simp] theorem setBaud_uartTxq (be : BaudEnum) (s : State) : (setBaud be s).uartTxq = s.uartTxq := rfl
@[simp] theorem setBaud_wireLog (be : BaudEnum) (s : State) : (setBaud be s).wireLog = s.wireLog := rfl
@[simp] theorem setBaud_hostLog (be : BaudEnum) (s : State) : (setBaud be s).hostLog = s.hostLog := rfl
@[simp] theorem setBaud_fault (be : BaudEnum) (s : State) : (setBaud be s).fault = s.fault := rfl
@[simp] theorem setBaud_booted (be : BaudEnum) (s : State) : (setBaud be s).booted = s.booted := rfl
@[simp] theorem setBaud_script (be : BaudEnum) (s : State) : (setBaud be s).script = s.script := rfl

/-! ## setTimeout -/

@[simp] theorem setTimeout_phyState (ms : Byte) (s : State) : (setTimeout ms s).phyState = s.phyState := rfl
@[simp] theorem setTimeout_phyTxRef (ms : Byte) (s : State) : (setTimeout ms s).phyTxRef = s.phyTxRef := rfl
@[simp] theorem setTimeout_phyRxRef (ms : Byte) (s : State) : (setTimeout ms s).phyRxRef = s.phyRxRef := rfl
@[simp] theorem setTimeout_phySize (ms : Byte) (s : State) : (setTimeout ms s).phySize = s.phySize := rfl
@[simp] theorem setTimeout_phyCursor (ms : Byte) (s : State) : (setTimeout ms s).phyCursor = s.phyCursor := rfl
@[simp] theorem setTimeout_phyTail (ms : Byte) (s : State) : (setTimeout ms s).phyTail = s.phyTail := rfl
@[simp] theorem setTimeout_rts (ms : Byte) (s : State) : (setTimeout ms s).rts = s.rts := rfl
@[simp] theorem setTimeout_rxEn (ms : Byte) (s : State) : (setTimeout ms s).rxEn = s.rxEn := rfl
@[simp] theorem setTimeout_udreIe (ms : Byte) (s : State) : (setTimeout ms s).udreIe = s.udreIe := rfl
@[simp] theorem setTimeout_activity (ms : Byte) (s : State) : (setTimeout ms s).activity = s.activity := rfl
@[simp] theorem setTimeout_baud (ms : Byte) (s : State) : (setTimeout ms s).baud = s.baud := rfl
@[simp] theorem setTimeout_rxPkt (ms : Byte) (s : State) : (setTimeout ms s).rxPkt = s.rxPkt := rfl
@[simp] theorem setTimeout_rxCursor (ms : Byte) (s : State) : (setTimeout ms s).rxCursor = s.rxCursor := rfl
@[simp] theorem setTimeout_rxExpected (ms : Byte) (s : State) : (setTimeout ms s).rxExpected = s.rxExpected := rfl
@[simp] theorem setTimeout_txPkt (ms : Byte) (s : State) : (setTimeout ms s).txPkt = s.txPkt := rfl
@[simp] theorem setTimeout_txCursor (ms : Byte) (s : State) : (setTimeout ms s).txCursor = s.txCursor := rfl
@[simp] theorem setTimeout_txLen (ms : Byte) (s : State) : (setTimeout ms s).txLen = s.txLen := rfl
@[simp] theorem setTimeout_blocked (ms : Byte) (s : State) : (setTimeout ms s).blocked = s.blocked := rfl
@[simp] theorem setTimeout_signal (ms : Byte) (s : State) : (setTimeout ms s).signal = s.signal := rfl
@[simp] theorem setTimeout_cfgRxTimeoutMs (ms : Byte) (s : State) : (setTimeout ms s).cfgRxTimeoutMs = ms := rfl
@[simp] theorem setTimeout_uartTxq (ms : Byte) (s : State) : (setTimeout ms s).uartTxq = s.uartTxq := rfl
@[simp] theorem setTimeout_wireLog (ms : Byte) (s : State) : (setTimeout ms s).wireLog = s.wireLog := rfl
@[simp] theorem setTimeout_hostLog (ms : Byte) (s : State) : (setTimeout ms s).hostLog = s.hostLog := rfl
@[simp] theorem setTimeout_fault (ms : Byte) (s : State) : (setTimeout ms s).fault = s.fault := rfl
@[simp] theorem setTimeout_booted (ms : Byte) (s : State) : (setTimeout ms s).booted = s.booted := rfl
@[simp] theorem setTimeout_script (ms : Byte) (s : State) : (setTimeout ms s).script = s.script := rfl

/-! ## setPhySize -/

@[simp] theorem setPhySize_phyState (n : Nat) (s : State) : (setPhySize n s).phyState = s.phyState := rfl
@[simp] theorem setPhySize_phyTxRef (n : Nat) (s : State) : (setPhySize n s).phyTxRef = s.phyTxRef := rfl
@[simp] theorem setPhySize_phyRxRef (n : Nat) (s : State) : (setPhySize n s).phyRxRef = s.phyRxRef := rfl
@[simp] theorem setPhySize_phySize (n : Nat) (s : State) : (setPhySize n s).phySize = n := rfl
@[simp] theorem setPhySize_phyCursor (n : Nat) (s : State) : (setPhySize n s).phyCursor = s.phyCursor := rfl
@[simp] theorem setPhySize_phyTail (n : Nat) (s : State) : (setPhySize n s).phyTail = s.phyTail := rfl
@[simp] theorem setPhySize_rts (n : Nat) (s : State) : (setPhySize n s).rts = s.rts := rfl
@[simp] theorem setPhySize_rxEn (n : Nat) (s : State) : (setPhySize n s).rxEn = s.rxEn := rfl
@[simp] theorem setPhySize_udreIe (n : Nat) (s : State) : (setPhySize n s).udreIe = s.udreIe := rfl
@[simp] theorem setPhySize_activity (n : Nat) (s : State) : (setPhySize n s).activity = s.activity := rfl
@[simp] theorem setPhySize_baud (n : Nat) (s : State) : (setPhySize n s).baud = s.baud := rfl
@[simp] theorem setPhySize_rxPkt (n : Nat) (s : State) : (setPhySize n s).rxPkt = s.rxPkt := rfl
@[simp] theorem setPhySize_rxCursor (n : Nat) (s : State) : (setPhySize n s).rxCursor = s.rxCursor := rfl
@[simp] theorem setPhySize_rxExpected (n : Nat) (s : State) : (setPhySize n s).rxExpected = s.rxExpected := rfl
@[simp] theorem setPhySize_txPkt (n : Nat) (s : State) : (setPhySize n s).txPkt = s.txPkt := rfl
@[simp] theorem setPhySize_txCursor (n : Nat) (s : State) : (setPhySize n s).txCursor = s.txCursor := rfl
@[simp] theorem setPhySize_txLen (n : Nat) (s : State) : (setPhySize n s).txLen = s.txLen := rfl
@[simp] theorem setPhySize_blocked (n : Nat) (s : State) : (setPhySize n s).blocked = s.blocked := rfl
@[simp] theorem setPhySize_signal (n : Nat) (s : State) : (setPhySize n s).signal = s.signal := rfl
@[simp] theorem setPhySize_cfgRxTimeoutMs (n : Nat) (s : State) : (setPhySize n s).cfgRxTimeoutMs = s.cfgRxTimeoutMs := rfl
@[simp] theorem setPhySize_uartTxq (n : Nat) (s : State) : (setPhySize n s).uartTxq = s.uartTxq := rfl
@[simp] theorem setPhySize_wireLog (n : Nat) (s : State) : (setPhySize n s).wireLog = s.wireLog := rfl
@[simp] theorem setPhySize_hostLog (n : Nat) (s : State) : (setPhySize n s).hostLog = s.hostLog := rfl
@[simp] theorem setPhySize_fault (n : Nat) (s : State) : (setPhySize n s).fault = s.fault := rfl
@[simp] theorem setPhySize_booted (n : Nat) (s : State) : (setPhySize n s).booted = s.booted := rfl
@[simp] theorem setPhySize_script (n : Nat) (s : State) : (setPhySize n s).script = s.script := rfl

/-! ## setPhyCursor -/

@[simp] theorem setPhyCursor_phyState (n : Nat) (s : State) : (setPhyCursor n s).phyState = s.phyState := rfl
@[simp] theorem setPhyCursor_phyTxRef (n : Nat) (s : State) : (setPhyCursor n s).phyTxRef = s.phyTxRef := rfl
@[simp] theorem setPhyCursor_phyRxRef (n : Nat) (s : State) : (setPhyCursor n s).phyRxRef = s.phyRxRef := rfl
@[simp] theorem setPhyCursor_phySize (n : Nat) (s : State) : (setPhyCursor n s).phySize = s.phySize := rfl
@[simp] theorem setPhyCursor_phyCursor (n : Nat) (s : State) : (setPhyCursor n s).phyCursor = n := rfl
@[simp] theorem setPhyCursor_phyTail (n : Nat) (s : State) : (setPhyCursor n s).phyTail = s.phyTail := rfl
@[simp] theorem setPhyCursor_rts (n : Nat) (s : State) : (setPhyCursor n s).rts = s.rts := rfl
@[simp] theorem setPhyCursor_rxEn (n : Nat) (s : State) : (setPhyCursor n s).rxEn = s.rxEn := rfl
@[simp] theorem setPhyCursor_udreIe (n : Nat) (s : State) : (setPhyCursor n s).udreIe = s.udreIe := rfl
@[simp] theorem setPhyCursor_activity (n : Nat) (s : State) : (setPhyCursor n s).activity = s.activity := rfl
@[simp] theorem setPhyCursor_baud (n : Nat) (s : State) : (setPhyCursor n s).baud = s.baud := rfl
@[simp] theorem setPhyCursor_rxPkt (n : Nat) (s : State) : (setPhyCursor n s).rxPkt = s.rxPkt := rfl
@[simp] theorem setPhyCursor_rxCursor (n : Nat) (s : State) : (setPhyCursor n s).rxCursor = s.rxCursor := rfl
@[simp] theorem setPhyCursor_rxExpected (n : Nat) (s : State) : (setPhyCursor n s).rxExpected = s.rxExpected := rfl
@[simp] theorem setPhyCursor_txPkt (n : Nat) (s : State) : (setPhyCursor n s).txPkt = s.txPkt := rfl
@[simp] theorem setPhyCursor_txCursor (n : Nat) (s : State) : (setPhyCursor n s).txCursor = s.txCursor := rfl
@[simp] theorem setPhyCursor_txLen (n : Nat) (s : State) : (setPhyCursor n s).txLen = s.txLen := rfl
@[simp] theorem setPhyCursor_blocked (n : Nat) (s : State) : (setPhyCursor n s).blocked = s.blocked := rfl
@[simp] theorem setPhyCursor_signal (n : Nat) (s : State) : (setPhyCursor n s).signal = s.signal := rfl
@[simp] theorem setPhyCursor_cfgRxTimeoutMs (n : Nat) (s : State) : (setPhyCursor n s).cfgRxTimeoutMs = s.cfgRxTimeoutMs := rfl
@[simp] theorem setPhyCursor_uartTxq (n : Nat) (s : State) : (setPhyCursor n s).uartTxq = s.uartTxq := rfl
@[simp] theorem setPhyCursor_wireLog (n : Nat) (s : State) : (setPhyCursor n s).wireLog = s.wireLog := rfl
@[simp] theorem setPhyCursor_hostLog (n : Nat) (s : State) : (setPhyCursor n s).hostLog = s.hostLog := rfl
@[simp] theorem setPhyCursor_fault (n : Nat) (s : State) : (setPhyCursor n s).fault = s.fault := rfl
@[simp] theorem setPhyCursor_booted (n : Nat) (s : State) : (setPhyCursor n s).booted = s.booted := rfl
@[simp] theorem setPhyCursor_script (n : Nat) (s : State) : (setPhyCursor n s).script = s.script := rfl

/-! ## clearTail -/

@[simp] theorem clearTail_phyState (s : State) : (clearTail s).phyState = s.phyState := rfl
@[simp] theorem clearTail_phyTxRef (s : State) : (clearTail s).phyTxRef = s.phyTxRef := rfl
@[simp] theorem clearTail_phyRxRef (s : State) : (clearTail s).phyRxRef = s.phyRxRef := rfl
@[simp] theorem clearTail_phySize (s : State) : (clearTail s).phySize = s.phySize := rfl
@[simp] theorem clearTail_phyCursor (s : State) : (clearTail s).phyCursor = s.phyCursor := rfl
@[simp] theorem clearTail_phyTail (s : State) : (clearTail s).phyTail = false := rfl
@[simp] theorem clearTail_rts (s : State) : (clearTail s).rts = s.rts := rfl
@[simp] theorem clearTail_rxEn (s : State) : (clearTail s).rxEn = s.rxEn := rfl
@[simp] theorem clearTail_udreIe (s : State) : (clearTail s).udreIe = s.udreIe := rfl
@[simp] theorem clearTail_activity (s : State) : (clearTail s).activity = s.activity := rfl
@[simp] theorem clearTail_baud (s : State) : (clearTail s).baud = s.baud := rfl
@[simp] theorem clearTail_rxPkt (s : State) : (clearTail s).rxPkt = s.rxPkt := rfl
@[simp] theorem clearTail_rxCursor (s : State) : (clearTail s).rxCursor = s.rxCursor := rfl
@[simp] theorem clearTail_rxExpected (s : State) : (clearTail s).rxExpected = s.rxExpected := rfl
@[simp] theorem clearTail_txPkt (s : State) : (clearTail s).txPkt = s.txPkt := rfl
@[simp] theorem clearTail_txCursor (s : State) : (clearTail s).txCursor = s.txCursor := rfl
@[simp] theorem clearTail_txLen (s : State) : (clearTail s).txLen = s.txLen := rfl
@[simp] theorem clearTail_blocked (s : State) : (clearTail s).blocked = s.blocked := rfl
@[simp] theorem clearTail_signal (s : State) : (clearTail s).signal = s.signal := rfl
@[simp] theorem clearTail_cfgRxTimeoutMs (s : State) : (clearTail s).cfgRxTimeoutMs = s.cfgRxTimeoutMs := rfl
@[simp] theorem clearTail_uartTxq (s : State) : (clearTail s).uartTxq = s.uartTxq := rfl
@[simp] theorem clearTail_wireLog (s : State) : (clearTail s).wireLog = s.wireLog := rfl
@[simp] theorem clearTail_hostLog (s : State) : (clearTail s).hostLog = s.hostLog := rfl
@[simp] theorem clearTail_fault (s : State) : (clearTail s).fault = s.fault := rfl
@[simp] theorem clearTail_booted (s : State) : (clearTail s).booted = s.booted := rfl
@[simp] theorem clearTail_script (s : State) : (clearTail s).script = s.script := rfl

/-! ## disableUdre -/

@[simp] theorem disableUdre_phyState (s : State) : (disableUdre s).phyState = s.phyState := rfl
@[simp] theorem disableUdre_phyTxRef (s : State) : (disableUdre s).phyTxRef = s.phyTxRef := rfl
@[simp] theorem disableUdre_phyRxRef (s : State) : (disableUdre s).phyRxRef = s.phyRxRef := rfl
@[simp] theorem disableUdre_phySize (s : State) : (disableUdre s).phySize = s.phySize := rfl
@[simp] theorem disableUdre_phyCursor (s : State) : (disableUdre s).phyCursor = s.phyCursor := rfl
@[simp] theorem disableUdre_phyTail (s : State) : (disableUdre s).phyTail = s.phyTail := rfl
@[simp] theorem disableUdre_rts (s : State) : (disableUdre s).rts = s.rts := rfl
@[simp] theorem disableUdre_rxEn (s : State) : (disableUdre s).rxEn = s.rxEn := rfl
@[simp] theorem disableUdre_udreIe (s : State) : (disableUdre s).udreIe = false := rfl
@[simp] theorem disableUdre_activity (s : State) : (disableUdre s).activity = s.activity := rfl
@[simp] theorem disableUdre_baud (s : State) : (disableUdre s).baud = s.baud := rfl
@[simp] theorem disableUdre_rxPkt (s : State) : (disableUdre s).rxPkt = s.rxPkt := rfl
@[simp] theorem disableUdre_rxCursor (s : State) : (disableUdre s).rxCursor = s.rxCursor := rfl
@[simp] theorem disableUdre_rxExpected (s : State) : (disableUdre s).rxExpected = s.rxExpected := rfl
@[simp] theorem disableUdre_txPkt (s : State) : (disableUdre s).txPkt = s.txPkt := rfl
@[simp] theorem disableUdre_txCursor (s : State) : (disableUdre s).txCursor = s.txCursor := rfl
@[simp] theorem disableUdre_txLen (s : State) : (disableUdre s).txLen = s.txLen := rfl
@[simp] theorem disableUdre_blocked (s : State) : (disableUdre s).blocked = s.blocked := rfl
@[simp] theorem disableUdre_signal (s : State) : (disableUdre s).signal = s.signal := rfl
@[simp] theorem disableUdre_cfgRxTimeoutMs (s : State) : (disableUdre s).cfgRxTimeoutMs = s.cfgRxTimeoutMs := rfl
@[simp] theorem disableUdre_uartTxq (s : State) : (disableUdre s).uartTxq = s.uartTxq := rfl
@[simp] theorem disableUdre_wireLog (s : State) : (disableUdre s).wireLog = s.wireLog := rfl
@[simp] theorem disableUdre_hostLog (s : State) : (disableUdre s).hostLog = s.hostLog := rfl
@[simp] theorem disableUdre_fault (s : State) : (disableUdre s).fault = s.fault := rfl
@[simp] theorem disableUdre_booted (s : State) : (disableUdre s).booted = s.booted := rfl
@[simp] theorem disableUdre_script (s : State) : (disableUdre s).script = s.script := rfl

/-! ## setRxCursor -/

@[simp] theorem setRxCursor_phyState (n : Nat) (s : State) : (setRxCursor n s).phyState = s.phyState := rfl
@[simp] theorem setRxCursor_phyTxRef (n : Nat) (s : State) : (setRxCursor n s).phyTxRef = s.phyTxRef := rfl
@[simp] theorem setRxCursor_phyRxRef (n : Nat) (s : State) : (setRxCursor n s).phyRxRef = s.phyRxRef := rfl
@[simp] theorem setRxCursor_phySize (n : Nat) (s : State) : (setRxCursor n s).phySize = s.phySize := rfl
@[simp] theorem setRxCursor_phyCursor (n : Nat) (s : State) : (setRxCursor n s).phyCursor = s.phyCursor := rfl
@[simp] theorem setRxCursor_phyTail (n : Nat) (s : State) : (setRxCursor n s).phyTail = s.phyTail := rfl
@[simp] theorem setRxCursor_rts (n : Nat) (s : State) : (setRxCursor n s).rts = s.rts := rfl
@[simp] theorem setRxCursor_rxEn (n : Nat) (s : State) : (setRxCursor n s).rxEn = s.rxEn := rfl
@[simp] theorem setRxCursor_udreIe (n : Nat) (s : State) : (setRxCursor n s).udreIe = s.udreIe := rfl
@[simp] theorem setRxCursor_activity (n : Nat) (s : State) : (setRxCursor n s).activity = s.activity := rfl
@[simp] theorem setRxCursor_baud (n : Nat) (s : State) : (setRxCursor n s).baud = s.baud := rfl
@[simp] theorem setRxCursor_rxPkt (n : Nat) (s : State) : (setRxCursor n s).rxPkt = s.rxPkt := rfl
@[simp] theorem setRxCursor_rxCursor (n : Nat) (s : State) : (setRxCursor n s).rxCursor = n := rfl
@[simp] theorem setRxCursor_rxExpected (n : Nat) (s : State) : (setRxCursor n s).rxExpected = s.rxExpected := rfl
@[simp] theorem setRxCursor_txPkt (n : Nat) (s : State) : (setRxCursor n s).txPkt = s.txPkt := rfl
@[simp] theorem setRxCursor_txCursor (n : Nat) (s : State) : (setRxCursor n s).txCursor = s.txCursor := rfl
@[simp] theorem setRxCursor_txLen (n : Nat) (s : State) : (setRxCursor n s).txLen = s.txLen := rfl
@[simp] theorem setRxCursor_blocked (n : Nat) (s : State) : (setRxCursor n s).blocked = s.blocked := rfl
@[simp] theorem setRxCursor_signal (n : Nat) (s : State) : (setRxCursor n s).signal = s.signal := rfl
@[simp] theorem setRxCursor_cfgRxTimeoutMs (n : Nat) (s : State) : (setRxCursor n s).cfgRxTimeoutMs = s.cfgRxTimeoutMs := rfl
@[simp] theorem setRxCursor_uartTxq (n : Nat) (s : State) : (setRxCursor n s).uartTxq = s.uartTxq := rfl
@[simp] theorem setRxCursor_wireLog (n : Nat) (s : State) : (setRxCursor n s).wireLog = s.wireLog := rfl
@[simp] theorem setRxCursor_hostLog (n : Nat) (s : State) : (setRxCursor n s).hostLog = s.hostLog := rfl
@[simp] theorem setRxCursor_fault (n : Nat) (s : State) : (setRxCursor n s).fault = s.fault := rfl
@[simp] theorem setRxCursor_booted (n : Nat) (s : State) : (setRxCursor n s).booted = s.booted := rfl
@[simp] theorem setRxCursor_script (n : Nat) (s : State) : (setRxCursor n s).script = s.script := rfl

/-! ## setRxExpected -/

@[simp] theorem setRxExpected_phyState (n : Nat) (s : State) : (setRxExpected n s).phyState = s.phyState := rfl
@[simp] theorem setRxExpected_phyTxRef (n : Nat) (s : State) : (setRxExpected n s).phyTxRef = s.phyTxRef := rfl
@[simp] theorem setRxExpected_phyRxRef (n : Nat) (s : State) : (setRxExpected n s).phyRxRef = s.phyRxRef := rfl
@[simp] theorem setRxExpected_phySize (n : Nat) (s : State) : (setRxExpected n s).phySize = s.phySize := rfl
@[simp] theorem setRxExpected_phyCursor (n : Nat) (s : State) : (setRxExpected n s).phyCursor = s.phyCursor := rfl
@[simp] theorem setRxExpected_phyTail (n : Nat) (s : State) : (setRxExpected n s).phyTail = s.phyTail := rfl
@[simp] theorem setRxExpected_rts (n : Nat) (s : State) : (setRxExpected n s).rts = s.rts := rfl
@[simp] theorem setRxExpected_rxEn (n : Nat) (s : State) : (setRxExpected n s).rxEn = s.rxEn := rfl
@[simp] theorem setRxExpected_udreIe (n : Nat) (s : State) : (setRxExpected n s).udreIe = s.udreIe := rfl
@[simp] theorem setRxExpected_activity (n : Nat) (s : State) : (setRxExpected n s).activity = s.activity := rfl
@[simp] theorem setRxExpected_baud (n : Nat) (s : State) : (setRxExpected n s).baud = s.baud := rfl
@[simp] theorem setRxExpected_rxPkt (n : Nat) (s : State) : (setRxExpected n s).rxPkt = s.rxPkt := rfl
@[simp] theorem setRxExpected_rxCursor (n : Nat) (s : State) : (setRxExpected n s).rxCursor = s.rxCursor := rfl
@[simp] theorem setRxExpected_rxExpected (n : Nat) (s : State) : (setRxExpected n s).rxExpected = n := rfl
@[simp] theorem setRxExpected_txPkt (n : Nat) (s : State) : (setRxExpected n s).txPkt = s.txPkt := rfl
@[simp] theorem setRxExpected_txCursor (n : Nat) (s : State) : (setRxExpected n s).txCursor = s.txCursor := rfl
@[simp] theorem setRxExpected_txLen (n : Nat) (s : State) : (setRxExpected n s).txLen = s.txLen := rfl
@[simp] theorem setRxExpected_blocked (n : Nat) (s : State) : (setRxExpected n s).blocked = s.blocked := rfl
@[simp] theorem setRxExpected_signal (n : Nat) (s : State) : (setRxExpected n s).signal = s.signal := rfl
@[simp] theorem setRxExpected_cfgRxTimeoutMs (n : Nat) (s : State) : (setRxExpected n s).cfgRxTimeoutMs = s.cfgRxTimeoutMs := rfl
@[simp] theorem setRxExpected_uartTxq (n : Nat) (s : State) : (setRxExpected n s).uartTxq = s.uartTxq := rfl
@[simp] theorem setRxExpected_wireLog (n : Nat) (s : State) : (setRxExpected n s).wireLog = s.wireLog := rfl
@[simp] theorem setRxExpected_hostLog (n : Nat) (s : State) : (setRxExpected n s).hostLog = s.hostLog := rfl
@[simp] theorem setRxExpected_fault (n : Nat) (s : State) : (setRxExpected n s).fault = s.fault := rfl
@[simp] theorem setRxExpected_booted (n : Nat) (s : State) : (setRxExpected n s).booted = s.booted := rfl
@[simp] theorem setRxExpected_script (n : Nat) (s : State) : (setRxExpected n s).script = s.script := rfl

/-! ## logHostByte -/

@[simp] theorem logHostByte_phyState (v : Byte) (s : State) : (logHostByte v s).phyState = s.phyState := rfl
@[simp] theorem logHostByte_phyTxRef (v : Byte) (s : State) : (logHostByte v s).phyTxRef = s.phyTxRef := rfl
@[simp] theorem logHostByte_phyRxRef (v : Byte) (s : State) : (logHostByte v s).phyRxRef = s.phyRxRef := rfl
@[simp] theorem logHostByte_phySize (v : Byte) (s : State) : (logHostByte v s).phySize = s.phySize := rfl
@[simp] theorem logHostByte_phyCursor (v : Byte) (s : State) : (logHostByte v s).phyCursor = s.phyCursor := rfl
@[simp] theorem logHostByte_phyTail (v : Byte) (s : State) : (logHostByte v s).phyTail = s.phyTail := rfl
@[simp] theorem logHostByte_rts (v : Byte) (s : State) : (logHostByte v s).rts = s.rts := rfl
@[simp] theorem logHostByte_rxEn (v : Byte) (s : State) : (logHostByte v s).rxEn = s.rxEn := rfl
@[simp] theorem logHostByte_udreIe (v : Byte) (s : State) : (logHostByte v s).udreIe = s.udreIe := rfl
@[simp] theorem logHostByte_activity (v : Byte) (s : State) : (logHostByte v s).activity = s.activity := rfl
@[simp] theorem logHostByte_baud (v : Byte) (s : State) : (logHostByte v s).baud = s.baud := rfl
@[simp] theorem logHostByte_rxPkt (v : Byte) (s : State) : (logHostByte v s).rxPkt = s.rxPkt := rfl
@[simp] theorem logHostByte_rxCursor (v : Byte) (s : State) : (logHostByte v s).rxCursor = s.rxCursor := rfl
@[simp] theorem logHostByte_rxExpected (v : Byte) (s : State) : (logHostByte v s).rxExpected = s.rxExpected := rfl
@[simp] theorem logHostByte_txPkt (v : Byte) (s : State) : (logHostByte v s).txPkt = s.txPkt := rfl
@[simp] theorem logHostByte_txCursor (v : Byte) (s : State) : (logHostByte v s).txCursor = s.txCursor := rfl
@[simp] theorem logHostByte_txLen (v : Byte) (s : State) : (logHostByte v s).txLen = s.txLen := rfl
@[simp] theorem logHostByte_blocked (v : Byte) (s : State) : (logHostByte v s).blocked = s.blocked := rfl
@[simp] theorem logHostByte_signal (v : Byte) (s : State) : (logHostByte v s).signal = s.signal := rfl
@[simp] theorem logHostByte_cfgRxTimeoutMs (v : Byte) (s : State) : (logHostByte v s).cfgRxTimeoutMs = s.cfgRxTimeoutMs := rfl
@[simp] theorem logHostByte_uartTxq (v : Byte) (s : State) : (logHostByte v s).uartTxq = s.uartTxq := rfl
@[simp] theorem logHostByte_wireLog (v : Byte) (s : State) : (logHostByte v s).wireLog = s.wireLog := rfl
@[simp] theorem logHostByte_hostLog (v : Byte) (s : State) : (logHostByte v s).hostLog = s.hostLog ++ [v] := rfl
@[simp] theorem logHostByte_fault (v : Byte) (s : State) : (logHostByte v s).fault = s.fault := rfl
@[simp] theorem logHostByte_booted (v : Byte) (s : State) : (logHostByte v s).booted = s.booted := rfl
@[simp] theorem logHostByte_script (v : Byte) (s : State) : (logHostByte v s).script = s.script := rfl

/-! ## putOnWire -/

@[simp] theorem putOnWire_phyState (v : Byte) (q : List Byte) (s : State) : (putOnWire v q s).phyState = s.phyState := rfl
@[simp] theorem putOnWire_phyTxRef (v : Byte) (q : List Byte) (s : State) : (putOnWire v q s).phyTxRef = s.phyTxRef := rfl
@[simp] theorem putOnWire_phyRxRef (v : Byte) (q : List Byte) (s : State) : (putOnWire v q s).phyRxRef = s.phyRxRef := rfl
@[simp] theorem putOnWire_phySize (v : Byte) (q : List Byte) (s : State) : (putOnWire v q s).phySize = s.phySize := rfl
@[simp] theorem putOnWire_phyCursor (v : Byte) (q : List Byte) (s : State) : (putOnWire v q s).phyCursor = s.phyCursor := rfl
@[simp] theorem putOnWire_phyTail (v : Byte) (q : List Byte) (s : State) : (putOnWire v q s).phyTail = s.phyTail := rfl
@[simp] theorem putOnWire_rts (v : Byte) (q : List Byte) (s : State) : (putOnWire v q s).rts = s.rts := rfl
@[simp] theorem putOnWire_rxEn (v : Byte) (q : List Byte) (s : State) : (putOnWire v q s).rxEn = s.rxEn := rfl
@[simp] theorem putOnWire_udreIe (v : Byte) (q : List Byte) (s : State) : (putOnWire v q s).udreIe = s.udreIe := rfl
@[simp] theorem putOnWire_activity (v : Byte) (q : List Byte) (s : State) : (putOnWire v q s).activity = s.activity := rfl
@[simp] theorem putOnWire_baud (v : Byte) (q : List Byte) (s : State) : (putOnWire v q s).baud = s.baud := rfl
@[simp] theorem putOnWire_rxPkt (v : Byte) (q : List Byte) (s : State) : (putOnWire v q s).rxPkt = s.rxPkt := rfl
@[simp] theorem putOnWire_rxCursor (v : Byte) (q : List Byte) (s : State) : (putOnWire v q s).rxCursor = s.rxCursor := rfl
@[simp] theorem putOnWire_rxExpected (v : Byte) (q : List Byte) (s : State) : (putOnWire v q s).rxExpected = s.rxExpected := rfl
@[simp] theorem putOnWire_txPkt (v : Byte) (q : List Byte) (s : State) : (putOnWire v q s).txPkt = s.txPkt := rfl
@[simp] theorem putOnWire_txCursor (v : Byte) (q : List Byte) (s : State) : (putOnWire v q s).txCursor = s.txCursor := rfl
@[simp] theorem putOnWire_txLen (v : Byte) (q : List Byte) (s : State) : (putOnWire v q s).txLen = s.txLen := rfl
@[simp] theorem putOnWire_blocked (v : Byte) (q : List Byte) (s : State) : (putOnWire v q s).blocked = s.blocked := rfl
@[simp] theorem putOnWire_signal (v : Byte) (q : List Byte) (s : State) : (putOnWire v q s).signal = s.signal := rfl
@[simp] theorem putOnWire_cfgRxTimeoutMs (v : Byte) (q : List Byte) (s : State) : (putOnWire v q s).cfgRxTimeoutMs = s.cfgRxTimeoutMs := rfl
@[simp] theorem putOnWire_uartTxq (v : Byte) (q : List Byte) (s : State) : (putOnWire v q s).uartTxq = q := rfl
@[simp] theorem putOnWire_wireLog (v : Byte) (q : List Byte) (s : State) : (putOnWire v q s).wireLog = s.wireLog ++ [(v, s.rts)] := rfl
@[simp] theorem putOnWire_hostLog (v : Byte) (q : List Byte) (s : State) : (putOnWire v q s).hostLog = s.hostLog := rfl
@[simp] theorem putOnWire_fault (v : Byte) (q : List Byte) (s : State) : (putOnWire v q s).fault = s.fault := rfl
@[simp] theorem putOnWire_booted (v : Byte) (q : List Byte) (s : State) : (putOnWire v q s).booted = s.booted := rfl
@[simp] theorem putOnWire_script (v : Byte) (q : List Byte) (s : State) : (putOnWire v q s).script = s.script := rfl

/-! ## enableInterrupts -/

@[simp] theorem enableInterrupts_phyState (s : State) : (enableInterrupts s).phyState = s.phyState := rfl
@[simp] theorem enableInterrupts_phyTxRef (s : State) : (enableInterrupts s).phyTxRef = s.phyTxRef := rfl
@[simp] theorem enableInterrupts_phyRxRef (s : State) : (enableInterrupts s).phyRxRef = s.phyRxRef := rfl
@[simp] theorem enableInterrupts_phySize (s : State) : (enableInterrupts s).phySize = s.phySize := rfl
@[simp] theorem enableInterrupts_phyCursor (s : State) : (enableInterrupts s).phyCursor = s.phyCursor := rfl
@[simp] theorem enableInterrupts_phyTail (s : State) : (enableInterrupts s).phyTail = s.phyTail := rfl
@[simp] theorem enableInterrupts_rts (s : State) : (enableInterrupts s).rts = s.rts := rfl
@[simp] theorem enableInterrupts_rxEn (s : State) : (enableInterrupts s).rxEn = s.rxEn := rfl
@[simp] theorem enableInterrupts_udreIe (s : State) : (enableInterrupts s).udreIe = s.udreIe := rfl
@[simp] theorem enableInterrupts_activity (s : State) : (enableInterrupts s).activity = s.activity := rfl
@[simp] theorem enableInterrupts_baud (s : State) : (enableInterrupts s).baud = s.baud := rfl
@[simp] theorem enableInterrupts_rxPkt (s : State) : (enableInterrupts s).rxPkt = s.rxPkt := rfl
@[simp] theorem enableInterrupts_rxCursor (s : State) : (enableInterrupts s).rxCursor = s.rxCursor := rfl
@[simp] theorem enableInterrupts_rxExpected (s : State) : (enableInterrupts s).rxExpected = s.rxExpected := rfl
@[simp] theorem enableInterrupts_txPkt (s : State) : (enableInterrupts s).txPkt = s.txPkt := rfl
@[simp] theorem enableInterrupts_txCursor (s : State) : (enableInterrupts s).txCursor = s.txCursor := rfl
@[simp] theorem enableInterrupts_txLen (s : State) : (enableInterrupts s).txLen = s.txLen := rfl
@[simp] theorem enableInterrupts_blocked (s : State) : (enableInterrupts s).blocked = s.blocked := rfl
@[simp] theorem enableInterrupts_signal (s : State) : (enableInterrupts s).signal = s.signal := rfl
@[simp] theorem enableInterrupts_cfgRxTimeoutMs (s : State) : (enableInterrupts s).cfgRxTimeoutMs = s.cfgRxTimeoutMs := rfl
@[simp] theorem enableInterrupts_uartTxq (s : State) : (enableInterrupts s).uartTxq = s.uartTxq := rfl
@[simp] theorem enableInterrupts_wireLog (s : State) : (enableInterrupts s).wireLog = s.wireLog := rfl
@[simp] theorem enableInterrupts_hostLog (s : State) : (enableInterrupts s).hostLog = s.hostLog := rfl
@[simp] theorem enableInterrupts_fault (s : State) : (enableInterrupts s).fault = s.fault := rfl
@[simp] theorem enableInterrupts_booted (s : State) : (enableInterrupts s).booted = true := rfl
@[simp] theorem enableInterrupts_script (s : State) : (enableInterrupts s).script = s.script := rfl

/-! ## setFault -/

@[simp] theorem setFault_phyState (r : Fault) (s : State) : (setFault r s).phyState = s.phyState := rfl
@[simp] theorem setFault_phyTxRef (r : Fault) (s : State) : (setFault r s).phyTxRef = s.phyTxRef := rfl
@[simp] theorem setFault_phyRxRef (r : Fault) (s : State) : (setFault r s).phyRxRef = s.phyRxRef := rfl
@[simp] theorem setFault_phySize (r : Fault) (s : State) : (setFault r s).phySize = s.phySize := rfl
@[simp] theorem setFault_phyCursor (r : Fault) (s : State) : (setFault r s).phyCursor = s.phyCursor := rfl
@[simp] theorem setFault_phyTail (r : Fault) (s : State) : (setFault r s).phyTail = s.phyTail := rfl
@[simp] theorem setFault_rts (r : Fault) (s : State) : (setFault r s).rts = s.rts := rfl
@[simp] theorem setFault_rxEn (r : Fault) (s : State) : (setFault r s).rxEn = s.rxEn := rfl
@[simp] theorem setFault_udreIe (r : Fault) (s : State) : (setFault r s).udreIe = s.udreIe := rfl
@[simp] theorem setFault_activity (r : Fault) (s : State) : (setFault r s).activity = s.activity := rfl
@[simp] theorem setFault_baud (r : Fault) (s : State) : (setFault r s).baud = s.baud := rfl
@[simp] theorem setFault_rxPkt (r : Fault) (s : State) : (setFault r s).rxPkt = s.rxPkt := rfl
@[simp] theorem setFault_rxCursor (r : Fault) (s : State) : (setFault r s).rxCursor = s.rxCursor := rfl
@[simp] theorem setFault_rxExpected (r : Fault) (s : State) : (setFault r s).rxExpected = s.rxExpected := rfl
@[simp] theorem setFault_txPkt (r : Fault) (s : State) : (setFault r s).txPkt = s.txPkt := rfl
@[simp] theorem setFault_txCursor (r : Fault) (s : State) : (setFault r s).txCursor = s.txCursor := rfl
@[simp] theorem setFault_txLen (r : Fault) (s : State) : (setFault r s).txLen = s.txLen := rfl
@[simp] theorem setFault_blocked (r : Fault) (s : State) : (setFault r s).blocked = s.blocked := rfl
@[simp] theorem setFault_signal (r : Fault) (s : State) : (setFault r s).signal = s.signal := rfl
@[simp] theorem setFault_cfgRxTimeoutMs (r : Fault) (s : State) : (setFault r s).cfgRxTimeoutMs = s.cfgRxTimeoutMs := rfl
@[simp] theorem setFault_uartTxq (r : Fault) (s : State) : (setFault r s).uartTxq = s.uartTxq := rfl
@[simp] theorem setFault_wireLog (r : Fault) (s : State) : (setFault r s).wireLog = s.wireLog := rfl
@[simp] theorem setFault_hostLog (r : Fault) (s : State) : (setFault r s).hostLog = s.hostLog := rfl
@[simp] theorem setFault_fault (r : Fault) (s : State) : (setFault r s).fault = some r := rfl
@[simp] theorem setFault_booted (r : Fault) (s : State) : (setFault r s).booted = s.booted := rfl
@[simp] theorem setFault_script (r : Fault) (s : State) : (setFault r s).script = s.script := rfl

/-! ## setScript -/

@[simp] theorem setScript_phyState (rest : List Byte) (s : State) : (setScript rest s).phyState = s.phyState := rfl
@[simp] theorem setScript_phyTxRef (rest : List Byte) (s : State) : (setScript rest s).phyTxRef = s.phyTxRef := rfl
@[simp] theorem setScript_phyRxRef (rest : List Byte) (s : State) : (setScript rest s).phyRxRef = s.phyRxRef := rfl
@[simp] theorem setScript_phySize (rest : List Byte) (s : State) : (setScript rest s).phySize = s.phySize := rfl
@[simp] theorem setScript_phyCursor (rest : List Byte) (s : State) : (setScript rest s).phyCursor = s.phyCursor := rfl
@[simp] theorem setScript_phyTail (rest : List Byte) (s : State) : (setScript rest s).phyTail = s.phyTail := rfl
@[simp] theorem setScript_rts (rest : List Byte) (s : State) : (setScript rest s).rts = s.rts := rfl
@[simp] theorem setScript_rxEn (rest : List Byte) (s : State) : (setScript rest s).rxEn = s.rxEn := rfl
@[simp] theorem setScript_udreIe (rest : List Byte) (s : State) : (setScript rest s).udreIe = s.udreIe := rfl
@[simp] theorem setScript_activity (rest : List Byte) (s : State) : (setScript rest s).activity = s.activity := rfl
@[simp] theorem setScript_baud (rest : List Byte) (s : State) : (setScript rest s).baud = s.baud := rfl
@[simp] theorem setScript_rxPkt (rest : List Byte) (s : State) : (setScript rest s).rxPkt = s.rxPkt := rfl
@[simp] theorem setScript_rxCursor (rest : List Byte) (s : State) : (setScript rest s).rxCursor = s.rxCursor := rfl
@[simp] theorem setScript_rxExpected (rest : List Byte) (s : State) : (setScript rest s).rxExpected = s.rxExpected := rfl
@[simp] theorem setScript_txPkt (rest : List Byte) (s : State) : (setScript rest s).txPkt = s.txPkt := rfl
@[simp] theorem setScript_txCursor (rest : List Byte) (s : State) : (setScript rest s).txCursor = s.txCursor := rfl
@[simp] theorem setScript_txLen (rest : List Byte) (s : State) : (setScript rest s).txLen = s.txLen := rfl
@[simp] theorem setScript_blocked (rest : List Byte) (s : State) : (setScript rest s).blocked = s.blocked := rfl
@[simp] theorem setScript_signal (rest : List Byte) (s : State) : (setScript rest s).signal = s.signal := rfl
@[simp] theorem setScript_cfgRxTimeoutMs (rest : List Byte) (s : State) : (setScript rest s).cfgRxTimeoutMs = s.cfgRxTimeoutMs := rfl
@[simp] theorem setScript_uartTxq (rest : List Byte) (s : State) : (setScript rest s).uartTxq = s.uartTxq := rfl
@[simp] theorem setScript_wireLog (rest : List Byte) (s : State) : (setScript rest s).wireLog = s.wireLog := rfl
@[simp] theorem setScript_hostLog (rest : List Byte) (s : State) : (setScript rest s).hostLog = s.hostLog := rfl
@[simp] theorem setScript_fault (rest : List Byte) (s : State) : (setScript rest s).fault = s.fault := rfl
@[simp] theorem setScript_booted (rest : List Byte) (s : State) : (setScript rest s).booted = s.booted := rfl
@[simp] theorem setScript_script (rest : List Byte) (s : State) : (setScript rest s).script = rest := rfl

/-! ## buf -/

@[simp] theorem buf_rxPkt (s : State) : s.buf .rxPkt = s.rxPkt := rfl
@[simp] theorem buf_txPkt (s : State) : s.buf .txPkt = s.txPkt := rfl

/-! ## The codes of `phy_state` (R96) -/

@[simp] theorem code_idle : PhyState.code .idle = 0 := rfl
@[simp] theorem code_sendingSdr : PhyState.code .sendingSdr = 1 := rfl
@[simp] theorem code_sendingSdn : PhyState.code .sendingSdn = 2 := rfl
@[simp] theorem code_receivingSdr : PhyState.code .receivingSdr = 3 := rfl

/-- A state's code encodes that state. -/
@[simp] theorem phyStateOfCode_code (p : PhyState) : phyStateOfCode p.code = some p := by cases p <;> rfl

/-- A number that encodes a state is that state's code. -/
theorem code_of_phyStateOfCode {n : Nat} {p : PhyState} (h : phyStateOfCode n = some p) : p.code = n := by
  unfold phyStateOfCode at h
  split at h <;> cases h <;> rfl

end Sys2Proof.Machine
end

