-- ==== Sys2Proof/Laws/Ops.lean ====
section
/-! SUPPORT. What each shared operation can answer, said once: sequencing, taking an interrupt, replies, drains,
requests, the receiver's resolution, and the step. The provers cite these instead of unfolding the operations. -/

namespace Sys2Proof.Machine

/-! ## Sequencing -/

@[simp] theorem andThen_next (t : State) (k : State → Res) : andThen (.next t) k = k t := rfl
@[simp] theorem andThen_fault (r : Fault) (k : State → Res) : andThen (.fault r) k = .fault r := rfl
@[simp] theorem andThen_refused (r : Refusal) (k : State → Res) : andThen (.refused r) k = .refused r := rfl
@[simp] theorem withValue_ok {α : Type} (v : α) (k : α → Res) : withValue (.ok v) k = k v := rfl
@[simp] theorem withValue_error {α : Type} (r : Fault) (k : α → Res) : withValue (.error r) k = .fault r := rfl
@[simp] theorem handlerReturn_eq (s : State) : handlerReturn s = .next s := rfl

/-- A sequence that answers next went through a next state of its first part. -/
theorem andThen_eq_next {o : Res} {k : State → Res} {t : State} :
    andThen o k = .next t ↔ ∃ u, o = .next u ∧ k u = .next t := by
  cases o <;> simp [andThen]

/-- A read that answers next went through a value. -/
theorem withValue_eq_next {α : Type} {e : Except Fault α} {k : α → Res} {t : State} :
    withValue e k = .next t ↔ ∃ v, e = .ok v ∧ k v = .next t := by
  cases e <;> simp [withValue]

/-- A read that answers a fault faulted itself, or its continuation did. -/
theorem withValue_eq_fault {α : Type} {e : Except Fault α} {k : α → Res} {r : Fault} :
    withValue e k = .fault r ↔ e = .error r ∨ ∃ v, e = .ok v ∧ k v = .fault r := by
  cases e <;> simp [withValue]

/-- A sequence that answers a fault faulted in its first part, or after a next state of it. -/
theorem andThen_eq_fault {o : Res} {k : State → Res} {r : Fault} :
    andThen o k = .fault r ↔ o = .fault r ∨ ∃ u, o = .next u ∧ k u = .fault r := by
  cases o <;> simp [andThen]

/-- A read is not refused where its continuation is not. -/
theorem withValue_ne_refused {α : Type} {e : Except Fault α} {k : α → Res} {r : Refusal}
    (h : ∀ v, e = .ok v → k v ≠ .refused r) : withValue e k ≠ .refused r := by
  cases e with
  | ok v => exact h v rfl
  | error _ => simp

/-- A sequence is not refused where neither of its parts is. -/
theorem andThen_ne_refused {o : Res} {k : State → Res} {r : Refusal} (h : o ≠ .refused r)
    (hk : ∀ t, o = .next t → k t ≠ .refused r) : andThen o k ≠ .refused r := by
  cases o with
  | next t => exact hk t rfl
  | fault _ => simp
  | refused _ => simpa using h

/-! ## Interrupts -/

/-- In a running machine an admitted event runs its handler. -/
theorem takeInterrupt_admitted {a : State → Bool} {h : State → Res} {s : State} (hr : s.running) (ha : a s = true) :
    takeInterrupt a h s = h s := by
  simp [takeInterrupt, hr.1, hr.2, ha]

/-- An event that answers next was admitted in a running machine, and its handler answered. -/
theorem takeInterrupt_eq_next {a : State → Bool} {h : State → Res} {s t : State} :
    takeInterrupt a h s = .next t ↔ s.running ∧ a s = true ∧ h s = .next t := by
  unfold takeInterrupt State.running
  split
  · simp_all
  · split <;> simp_all

/-- In a running machine an event that is not admitted has no step. -/
theorem takeInterrupt_notAdmitted {a : State → Bool} {h : State → Res} {s : State} (hr : s.running)
    (ha : a s = false) : takeInterrupt a h s = .refused .eventNotAdmitted := by
  simp [takeInterrupt, hr.1, hr.2, ha]

/-! ## Replies -/

@[simp] theorem execQueueReply_ack (s : State) : execQueueReply .ack s = .next s.withAck := rfl
@[simp] theorem execQueueReply_nack (s : State) : execQueueReply .nack s = .next s.withNack := rfl

/-- An SRD reply is queued from the bytes its payload cells hold. -/
theorem execQueueReply_srdReply {s : State} {p : List Byte} (h : memReadRange .txPkt 3 p.length s = .ok p) :
    execQueueReply (.srdReply p.length) s = .next (s.withSrdReply p) := by
  simp only [execQueueReply, buildReply, h, withValue_ok]; rfl

/-- Everything `queue_reply` can do: queue a header and a length, or fault on a payload cell of an SRD reply. -/
theorem execQueueReply_cases (kind : ReplyKind) (s : State) :
    (∃ cmd size cs len, execQueueReply kind s = .next (s.withReply cmd size cs len) ∧ 3 ≤ len ∧
        (∀ n, kind = .srdReply n → len = 3 + n) ∧ ((∀ n, kind ≠ .srdReply n) → len = 3)) ∨
      (∃ n j r, kind = .srdReply n ∧ execQueueReply kind s = .fault r ∧ 3 ≤ j ∧ j < 3 + n ∧
        memRead .txPkt j s = .error r) := by
  cases kind with
  | ack => exact .inl ⟨_, _, _, 3, rfl, by omega, by simp, by simp⟩
  | nack => exact .inl ⟨_, _, _, 3, rfl, by omega, by simp, by simp⟩
  | srdReply n =>
    cases h : memReadRange .txPkt 3 n s with
    | ok p =>
      refine .inl ⟨0x04#8, BitVec.ofNat 8 n, fcs 0x04#8 (BitVec.ofNat 8 n) p, 3 + n, ?_, by omega, by simp, by simp⟩
      simp only [execQueueReply, buildReply, h, withValue_ok]; rfl
    | error r =>
      obtain ⟨j, h1, h2, h3⟩ := memReadRange_error h
      refine .inr ⟨n, j, r, rfl, ?_, h1, h2, h3⟩
      simp only [execQueueReply, buildReply, h, withValue_error]

/-- No `queue_reply` is refused. -/
theorem execQueueReply_ne_refused (kind : ReplyKind) (s : State) (r : Refusal) :
    execQueueReply kind s ≠ .refused r := by
  rcases execQueueReply_cases kind s with ⟨_, _, _, _, h, _⟩ | ⟨_, _, _, _, h, _⟩ <;> simp [h]

/-- The header cells of a queued packet, and every other cell as before. -/
theorem withReply_read (s : State) (cmd size cs : Byte) (len a : Nat) :
    (s.withReply cmd size cs len).txPkt.read a =
      if a = 2 then some cs else if a = 1 then some size else if a = 0 then some cmd else s.txPkt.read a := by
  simp only [withReply_txPkt, Memory.read_write]

/-! ## Drains -/

/-- Everything `drain` can do. -/
theorem drainByte_cases (s : State) :
    (s.txLen ≤ s.txCursor ∧ drainByte s = .ok (0x00#8, s)) ∨
      (∃ v, s.txCursor < s.txLen ∧ memRead .txPkt s.txCursor s = .ok v ∧ drainByte s = .ok (v, markDrained s)) ∨
      (∃ r, s.txCursor < s.txLen ∧ memRead .txPkt s.txCursor s = .error r ∧ drainByte s = .error r) := by
  unfold drainByte
  split
  · cases h : memRead .txPkt s.txCursor s with
    | ok v => exact .inr (.inl ⟨v, ‹_›, rfl, rfl⟩)
    | error r => exact .inr (.inr ⟨r, ‹_›, rfl, rfl⟩)
  · exact .inl ⟨by omega, rfl⟩

/-- A drain whose byte is there hands it over and leaves the state of `afterDrain`. -/
theorem drainByte_of_byteOut {s : State} {v : Byte} (h : s.byteOut = some v)
    (hc : s.txCursor < s.txLen → s.txCursor < pktMax) :
    ∃ u, drainByte s = .ok (v, u) ∧ logHostByte v u = s.afterDrain v := by
  unfold State.byteOut at h
  unfold drainByte State.afterDrain
  split at h
  · next hlt =>
    have hm : memRead .txPkt s.txCursor s = .ok v := memRead_ok_iff.2 ⟨hc hlt, h⟩
    exact ⟨markDrained s, by simp [hlt, hm], by simp [hlt, markDrained, logHostByte]⟩
  · next hlt =>
    cases h
    exact ⟨s, by simp [hlt], by simp [hlt, logHostByte]⟩

/-! ## Requests -/

/-- Everything a request can do: reject and change nothing, install the transfer, or fault on a telegram byte. -/
theorem request_cases (k : SendKind) (s : State) :
    (s.phyState ≠ .idle ∧ request k s = .ok (.busy, s)) ∨
      (s.phyState = .idle ∧ outgoingSize s = .ok 0 ∧ request k s = .ok (.invalidArgument, s)) ∨
      (∃ n, s.phyState = .idle ∧ n ≠ 0 ∧ outgoingSize s = .ok n ∧ request k s = .ok (.ok, installTransfer k n s)) ∨
      (∃ r, s.phyState = .idle ∧ outgoingSize s = .error r ∧ request k s = .error r) := by
  by_cases hp : s.phyState = .idle
  · cases h : outgoingSize s with
    | error r => exact .inr (.inr (.inr ⟨r, hp, rfl, by simp [request, hp, h]⟩))
    | ok n =>
      by_cases hn : n = 0
      · subst hn; exact .inr (.inl ⟨hp, rfl, by simp [request, acceptTelegram, hp, h]⟩)
      · exact .inr (.inr (.inl ⟨n, hp, hn, rfl, by simp [request, acceptTelegram, hp, h, hn]⟩))
  · exact .inl ⟨hp, by simp [request, hp]⟩

/-- The outgoing telegram's size from the bytes that determine it. -/
theorem outgoingSize_of_reads {s : State} {sd : Byte} {t : List Byte} (h3 : s.rxPkt.read 3 = some sd)
    (ht : memReadRange .rxPkt 3 (if sd = 0x68#8 then 3 else 1) s = .ok t) : outgoingSize s = .ok (telegramSize t) := by
  have hm : memRead .rxPkt 3 s = .ok sd := memRead_ok_iff.2 ⟨by decide, h3⟩
  simp [outgoingSize, hm, sizeBytes, ht]

/-- Where the outgoing size faults, the fault names one of the first three telegram cells. -/
theorem outgoingSize_error {s : State} {r : Fault} (h : outgoingSize s = .error r) :
    ∃ j, 3 ≤ j ∧ j < 6 ∧ memRead .rxPkt j s = .error r := by
  unfold outgoingSize at h
  split at h
  · next hr => cases h; exact ⟨3, by omega, by omega, hr⟩
  · next sd hr =>
    split at h
    · next hrr =>
      cases h
      obtain ⟨j, h1, h2, h3⟩ := memReadRange_error hrr
      refine ⟨j, h1, ?_, h3⟩
      unfold sizeBytes at h2
      split at h2 <;> omega
    · cases h

/-- The outgoing size faults on the first unwritten one of the bytes that determine it. -/
theorem outgoingSize_unwritten {s : State} :
    (s.rxPkt.read 3 = none → outgoingSize s = .error (.unwrittenRead .rxPkt 3)) ∧
    (s.rxPkt.read 3 = some 0x68#8 → s.rxPkt.read 4 = none → outgoingSize s = .error (.unwrittenRead .rxPkt 4)) ∧
    (∀ le, s.rxPkt.read 3 = some 0x68#8 → s.rxPkt.read 4 = some le → s.rxPkt.read 5 = none →
      outgoingSize s = .error (.unwrittenRead .rxPkt 5)) := by
  refine ⟨fun h3 => ?_, fun h3 h4 => ?_, fun le h3 h4 h5 => ?_⟩ <;>
    simp_all [outgoingSize, sizeBytes, memReadRange, memRead, State.buf, pktMax]

/-- A telegram's size never exceeds `TELEGRAM_MAX` (R6, R90). -/
theorem telegramSize_le (t : List Byte) : telegramSize t ≤ 255 := by
  unfold telegramSize
  repeat' split
  all_goals omega

/-! ## The receiver -/

/-- Everything the end of a receive can do, the completing one. -/
theorem execFinish_complete (s : State) :
    execFinish .complete s = execQueueReply (.srdReply s.phyCursor) (endReceive s) := rfl

/-- The aborting end of a receive queues NACK. -/
@[simp] theorem execFinish_error (s : State) :
    execFinish .error s = .next (setBlocked false (endReceive s)).withNack := rfl

/-- Everything the completion test can do. -/
theorem completeIfWhole_cases (s : State) :
    (s.phySize ≠ 0 ∧ s.phyCursor = s.phySize ∧ completeIfWhole s = execFinish .complete s) ∨
      ((s.phySize = 0 ∨ s.phyCursor ≠ s.phySize) ∧ completeIfWhole s = .next s) := by
  unfold completeIfWhole
  split
  · next h => exact .inl ⟨h.1, h.2, rfl⟩
  · next h => exact .inr ⟨by by_cases h0 : s.phySize = 0 <;> simp_all, rfl⟩

/-- Everything the receiver's resolution can do. -/
theorem resolveReply_cases (n : Nat) (s : State) :
    (n = 0 ∧ resolveReply n s = execFinish .error (setPhySize n s)) ∨
      (n ≠ 0 ∧ s.phyCursor = n ∧ resolveReply n s = execFinish .complete (setPhySize n s)) ∨
      (n ≠ 0 ∧ s.phyCursor ≠ n ∧ resolveReply n s = .next (setPhySize n s)) := by
  unfold resolveReply
  split
  · next h => exact .inl ⟨h, rfl⟩
  · next h =>
    rcases completeIfWhole_cases (setPhySize n s) with ⟨_, h2, h3⟩ | ⟨h2, h3⟩
    · exact .inr (.inl ⟨h, h2, h3⟩)
    · exact .inr (.inr ⟨h, by simpa [h] using h2, h3⟩)

/-- No end of a receive is refused. -/
theorem execFinish_ne_refused (ev : FinishEvent) (s : State) (r : Refusal) : execFinish ev s ≠ .refused r := by
  cases ev with
  | complete => exact execQueueReply_ne_refused _ _ _
  | error => simp

/-- The completion test is not refused. -/
theorem completeIfWhole_ne_refused (s : State) (r : Refusal) : completeIfWhole s ≠ .refused r := by
  rcases completeIfWhole_cases s with ⟨_, _, h⟩ | ⟨_, h⟩ <;> rw [h]
  · exact execFinish_ne_refused _ _ _
  · simp

/-- Nothing PhyLink does with a telegram's start is refused. -/
theorem resolveTelegram_ne_refused (use : TelegramUse) (n : Nat) (s : State) (r : Refusal) :
    resolveTelegram use n s ≠ .refused r := by
  cases use with
  | request k => simp [resolveTelegram]
  | reply =>
    show (if s.phyState ≠ .receivingSdr then handlerReturn s else resolveReply n s) ≠ .refused r
    split
    · simp
    · rcases resolveReply_cases n s with ⟨_, h⟩ | ⟨_, _, h⟩ | ⟨_, _, h⟩ <;> rw [h]
      · exact execFinish_ne_refused _ _ _
      · exact execFinish_ne_refused _ _ _
      · simp

/-! ## The step -/

/-- Everything a step can do. -/
theorem step_cases {s t : State} (h : step s = .next t) :
    s.fault = none ∧
      ((s.booted = false ∧ execBoot s = .next t) ∨
        (s.booted = true ∧ s.script = [] ∧ t = s) ∨
        (∃ i rest, s.booted = true ∧ decode .event s.script = .ok (i, rest) ∧
          (exec i (setScript rest s) = .next t ∨
            ∃ r, exec i (setScript rest s) = .fault r ∧ t = setFault r (setScript rest s)))) := by
  unfold step at h
  split at h
  · cases h
  · next hf =>
    refine ⟨hf, ?_⟩
    split at h
    · next hb =>
      unfold fetchEvent at h
      cases hs : s.script with
      | nil =>
        simp only [hs] at h
        cases h
        exact .inr (.inl ⟨hb, rfl, rfl⟩)
      | cons c cs =>
        simp only [hs] at h
        cases hd : decode .event (c :: cs) with
        | error e => simp only [hd] at h; cases h
        | ok p =>
          obtain ⟨i, rest⟩ := p
          simp only [hd] at h
          refine .inr (.inr ⟨i, rest, hb, rfl, ?_⟩)
          cases he : exec i (setScript rest s) with
          | next u => simp only [he, recordFault] at h; cases h; exact .inl rfl
          | fault r => simp only [he, recordFault] at h; cases h; exact .inr ⟨r, rfl, rfl⟩
          | refused r => simp only [he, recordFault] at h; cases h
    · next hb => exact .inl ⟨by simpa using hb, h⟩

/-- The event decoder reads one of the five events. -/
theorem decode_event_cases {bs rest : List Byte} {i : Instr} (h : decode .event bs = .ok (i, rest)) :
    (∃ b, i = .spiXfer b ∧ bs = 0x00#8 :: b :: rest) ∨ (i = .uartUdre ∧ bs = 0x01#8 :: rest) ∨
      (i = .uartTxc ∧ bs = 0x02#8 :: rest) ∨ (∃ b, i = .uartRxc b ∧ bs = 0x03#8 :: b :: rest) ∨
      (i = .uartShift ∧ bs = 0x04#8 :: rest) := by
  unfold decode at h
  split at h
  · cases h
  · next c cs =>
    simp only [decodeEvent] at h
    split at h
    · next hc => subst hc; split at h <;> cases h; exact .inl ⟨_, rfl, rfl⟩
    · split at h
      · next hc => subst hc; cases h; exact .inr (.inl ⟨rfl, rfl⟩)
      · split at h
        · next hc => subst hc; cases h; exact .inr (.inr (.inl ⟨rfl, rfl⟩))
        · split at h
          · next hc => subst hc; split at h <;> cases h; exact .inr (.inr (.inr (.inl ⟨_, rfl, rfl⟩)))
          · split at h
            · next hc => subst hc; cases h; exact .inr (.inr (.inr (.inr ⟨rfl, rfl⟩)))
            · cases h

end Sys2Proof.Machine
end

