-- ==== Sys2Proof/Laws/Link.lean ====
section
/-! SUPPORT. What HostLink's exchange, assembler and validation can do, and what PhyLink's receiver does with one byte,
each said once (spec/41_hostlink_rx.md, spec/40_phylink.md R116). -/

namespace Sys2Proof.Machine

/-! ## Reads -/

/-- A written cell inside the buffer reads as its byte. -/
theorem memRead_of_read {b : Buf} {i : Nat} {v : Byte} {s : State} (h : (s.buf b).read i = some v) (hi : i < pktMax) :
    memRead b i s = .ok v := memRead_ok_iff.2 ⟨hi, h⟩

/-- A range read is the read of its first part and the read of its second part. -/
theorem memReadRange_append {b : Buf} {s : State} {xs ys : List Byte} {i : Nat} :
    memReadRange b i (xs.length + ys.length) s = .ok (xs ++ ys) ↔
      memReadRange b i xs.length s = .ok xs ∧ memReadRange b (i + xs.length) ys.length s = .ok ys := by
  induction xs generalizing i with
  | nil => simp [memReadRange]
  | cons x xs ih =>
    have hl : (x :: xs).length + ys.length = (xs.length + ys.length) + 1 := by simp only [List.length_cons]; omega
    have he : i + (xs.length + 1) = i + 1 + xs.length := by omega
    have ih := @ih (i + 1)
    rw [hl]
    simp only [memReadRange, List.length_cons, List.cons_append, he]
    cases h1 : memRead b i s with
    | error r => simp
    | ok v =>
      cases h2 : memReadRange b (i + 1) (xs.length + ys.length) s with
      | error r =>
        rw [h2] at ih
        cases h3 : memReadRange b (i + 1) xs.length s <;> simp_all
      | ok vs =>
        rw [h2] at ih
        cases h3 : memReadRange b (i + 1) xs.length s <;> simp_all
        constructor <;> (rintro ⟨⟩; simp_all)

/-! ## The SPI exchange -/

@[simp] theorem afterDrain_blocked (s : State) (v : Byte) : (s.afterDrain v).blocked = s.blocked := by
  unfold State.afterDrain; split <;> rfl
@[simp] theorem afterDrain_rxCursor (s : State) (v : Byte) : (s.afterDrain v).rxCursor = s.rxCursor := by
  unfold State.afterDrain; split <;> rfl
@[simp] theorem afterDrain_rxExpected (s : State) (v : Byte) : (s.afterDrain v).rxExpected = s.rxExpected := by
  unfold State.afterDrain; split <;> rfl
@[simp] theorem afterDrain_rxPkt (s : State) (v : Byte) : (s.afterDrain v).rxPkt = s.rxPkt := by
  unfold State.afterDrain; split <;> rfl
@[simp] theorem afterDrain_txPkt (s : State) (v : Byte) : (s.afterDrain v).txPkt = s.txPkt := by
  unfold State.afterDrain; split <;> rfl

/-- An SPI tick whose outgoing byte is there: it is handed over, then the byte in is received. -/
theorem execSpiXfer_run {s : State} {b v : Byte} (hr : s.running) (hv : s.byteOut = some v)
    (hc : s.txCursor < s.txLen → s.txCursor < pktMax) :
    execSpiXfer b s = receive b (s.afterDrain v) := by
  obtain ⟨u, h1, h2⟩ := drainByte_of_byteOut hv hc
  unfold execSpiXfer
  rw [takeInterrupt_admitted hr rfl]
  unfold spiHandler
  rw [h1, withValue_ok, h2]

/-- Every SPI tick that answers next: the drain answered, and the byte in was received in the state it left. -/
theorem execSpiXfer_eq_next {s t : State} {b : Byte} (h : execSpiXfer b s = .next t) :
    s.running ∧ ∃ v u, drainByte s = .ok (v, u) ∧ receive b (logHostByte v u) = .next t := by
  obtain ⟨hr, -, h⟩ := takeInterrupt_eq_next.1 h
  obtain ⟨⟨v, u⟩, h1, h2⟩ := withValue_eq_next.1 h
  exact ⟨hr, v, u, h1, h2⟩

/-- A byte that is dropped: the link is blocked, or it is a leading no-op. -/
theorem receive_dropped {s : State} {b : Byte} (h : s.blocked = true ∨ (s.rxCursor = 0 ∧ b = 0x00#8)) :
    receive b s = .next s := by
  unfold receive
  split
  · rfl
  · next hb =>
    rcases h with h | h
    · exact absurd h hb
    · rw [if_pos h]; rfl

/-- A byte that is stored goes through stages 3 to 5. -/
theorem receive_stored {s : State} {b : Byte} (hb : s.blocked = false) (hn : s.rxCursor = 0 → b ≠ 0x00#8)
    (hc : s.rxCursor < pktMax) :
    receive b s =
      withValue (headerComplete (setRxCursor (s.rxCursor + 1) (s.setCell .rxPkt s.rxCursor b))) packetComplete := by
  have h1 : ¬ (s.rxCursor = 0 ∧ b = 0x00#8) := fun h => hn h.1 h.2
  unfold receive storeByte
  rw [if_neg (by simp [hb]), if_neg h1, memWrite_ok_iff.2 ⟨hc, rfl⟩]
  rfl

/-- Everything stage 4 can do. -/
theorem headerComplete_cases (s : State) :
    (s.rxCursor ≠ 3 ∧ headerComplete s = .ok s) ∨
      (∃ size, s.rxCursor = 3 ∧ memRead .rxPkt 1 s = .ok size ∧
        headerComplete s = .ok (setRxExpected (3 + size.toNat) s)) ∨
      (∃ r, s.rxCursor = 3 ∧ memRead .rxPkt 1 s = .error r ∧ headerComplete s = .error r) := by
  unfold headerComplete hdrLen
  split
  · cases h : memRead .rxPkt 1 s with
    | ok size => exact .inr (.inl ⟨size, ‹_›, rfl, rfl⟩)
    | error r => exact .inr (.inr ⟨r, ‹_›, rfl, rfl⟩)
  · exact .inl ⟨‹_›, rfl⟩

/-- Everything stage 5 can do. -/
theorem packetComplete_cases (s : State) :
    (¬ (3 ≤ s.rxCursor ∧ s.rxCursor = s.rxExpected) ∧ packetComplete s = .next s) ∨
      (3 ≤ s.rxCursor ∧ s.rxCursor = s.rxExpected ∧
        packetComplete s = andThen (execHandlePacket s) fun t => .next (setRxExpected 0 (setRxCursor 0 t))) := by
  unfold packetComplete hdrLen
  split
  · next h => exact .inr ⟨h.1, h.2, rfl⟩
  · next h => exact .inl ⟨h, rfl⟩

/-- The validation of a packet whose bytes are all written. -/
theorem execHandlePacket_eq {s : State} {cmd size cs : Byte} {payload : List Byte}
    (h0 : s.rxPkt.read 0 = some cmd) (h1 : s.rxPkt.read 1 = some size) (h2 : s.rxPkt.read 2 = some cs)
    (hp : memReadRange .rxPkt 3 size.toNat s = .ok payload) :
    execHandlePacket s =
      if cmd ≠ 0x00#8 ∧ cs ≠ fcs cmd size payload then execQueueReply .nack s else dispatch cmd s := by
  unfold execHandlePacket
  rw [memRead_of_read (b := .rxPkt) h0 (by decide), withValue_ok, memRead_of_read (b := .rxPkt) h1 (by decide),
    memRead_of_read (b := .rxPkt) h2 (by decide), withValue_ok, withValue_ok, hp, withValue_ok]
  by_cases hc : cmd = 0x00#8
  · rw [if_pos hc, if_neg (fun h => h.1 hc)]
  · rw [if_neg hc]
    by_cases hs : cs = fcs cmd size payload
    · rw [if_neg (fun h => h hs), if_neg (fun h => h.2 hs)]
    · rw [if_pos hs, if_pos ⟨hc, hs⟩]

/-- Everything the dispatch can be: one of the eight commands, or the NACK of a reserved code. -/
theorem dispatch_cases (cmd : Byte) (s : State) :
    (cmd = 0x00#8 ∧ dispatch cmd s = execNop s) ∨ (cmd = 0x01#8 ∧ dispatch cmd s = execReset s) ∨
      (cmd = 0x02#8 ∧ dispatch cmd s = execSetConfig s) ∨ (cmd = 0x03#8 ∧ dispatch cmd s = execPbSrdReq s) ∨
      (cmd = 0x04#8 ∧ dispatch cmd s = execPbSrdReply s) ∨ (cmd = 0x05#8 ∧ dispatch cmd s = execPbSdnReq s) ∨
      (cmd = 0x06#8 ∧ dispatch cmd s = execAck s) ∨ (cmd = 0x07#8 ∧ dispatch cmd s = execNack s) ∨
      (8 ≤ cmd.toNat ∧ dispatch cmd s = execQueueReply .nack s) := by
  by_cases h : cmd.toNat < 8
  · have hc : cmd = 0x00#8 ∨ cmd = 0x01#8 ∨ cmd = 0x02#8 ∨ cmd = 0x03#8 ∨ cmd = 0x04#8 ∨ cmd = 0x05#8 ∨
        cmd = 0x06#8 ∨ cmd = 0x07#8 := by
      revert cmd; decide
    rcases hc with rfl | rfl | rfl | rfl | rfl | rfl | rfl | rfl
    all_goals repeat' first | exact .inl ⟨rfl, rfl⟩ | apply Or.inr
  · have hne : ∀ v : Byte, v.toNat < 8 → cmd ≠ v := by rintro v hv rfl; exact h hv
    iterate 8 apply Or.inr
    refine ⟨by omega, ?_⟩
    unfold dispatch
    iterate 8 rw [if_neg (hne _ (by decide))]
    repeat' split
    all_goals rfl

/-- No PROFIBUS request is refused. -/
theorem startRequest_ne_refused (k : SendKind) (s : State) (r : Refusal) : startRequest k s ≠ .refused r := by
  unfold startRequest
  refine withValue_ne_refused fun p _ => ?_
  split
  · simp
  · exact execQueueReply_ne_refused _ _ _
  · exact execQueueReply_ne_refused _ _ _

/-- No set-config is refused. -/
theorem execSetConfig_ne_refused (s : State) (r : Refusal) : execSetConfig s ≠ .refused r := by
  have hAccept : ∀ u, acceptConfig u ≠ .refused r := fun u =>
    withValue_ne_refused fun _ _ => execQueueReply_ne_refused _ _ _
  unfold execSetConfig
  refine withValue_ne_refused fun size _ => ?_
  split
  · exact execQueueReply_ne_refused _ _ _
  · refine withValue_ne_refused fun b _ => ?_
    split
    · exact hAccept _
    · split
      · exact execQueueReply_ne_refused _ _ _
      · exact andThen_ne_refused (by simp [execPhyReinit]) fun _ _ => hAccept _

/-- What holds of doing nothing, of RESET, of SET_CONFIG, of both requests and of a queued NACK holds of every dispatch:
R160's table has no other outcome. -/
theorem dispatch_of_commands {p : Res → Prop} {s : State} (nothing : p (.next s)) (reset : p (execReset s))
    (config : p (execSetConfig s)) (send : ∀ k, p (startRequest k s)) (reserved : p (execQueueReply .nack s))
    (cmd : Byte) : p (dispatch cmd s) := by
  unfold dispatch
  refine iteInduction (fun _ => nothing) fun _ => iteInduction (fun _ => reset) fun _ =>
    iteInduction (fun _ => config) fun _ => iteInduction (fun _ => send .sdr) fun _ =>
    iteInduction (fun _ => nothing) fun _ => iteInduction (fun _ => send .sdn) fun _ =>
    iteInduction (fun _ => nothing) fun _ => iteInduction (fun _ => nothing) fun _ => ?_
  repeat' refine iteInduction (fun _ => reserved) fun _ => ?_
  exact reserved

/-- RESET is not refused. -/
theorem execReset_ne_refused (s : State) (r : Refusal) : execReset s ≠ .refused r :=
  execQueueReply_ne_refused .ack (hostlinkReset (phyReset s)) r

/-- No command is refused. -/
theorem dispatch_ne_refused (cmd : Byte) (s : State) (r : Refusal) : dispatch cmd s ≠ .refused r :=
  dispatch_of_commands (p := (· ≠ .refused r)) (by simp) (execReset_ne_refused s r) (execSetConfig_ne_refused s r)
    (startRequest_ne_refused · s r) (execQueueReply_ne_refused .nack s r) cmd

/-- No handled packet is refused. -/
theorem execHandlePacket_ne_refused (s : State) (r : Refusal) : execHandlePacket s ≠ .refused r := by
  unfold execHandlePacket
  refine withValue_ne_refused fun cmd _ => ?_
  split
  · exact dispatch_ne_refused _ _ _
  · refine withValue_ne_refused fun size _ => withValue_ne_refused fun cs _ => withValue_ne_refused fun payload _ => ?_
    split
    · exact execQueueReply_ne_refused _ _ _
    · exact dispatch_ne_refused _ _ _

/-! ## The receiver -/

/-- Everything the size resolution of one received byte can do (R116), with the byte stored and counted. -/
theorem replyByte_cases (b : Byte) (s : State) :
    (s.phyCursor = 1 ∧ b ≠ 0x68#8 ∧ replyByte b s = resolveTelegram .reply (telegramSize [b]) s) ∨
      (∃ t, s.phyCursor = 3 ∧ memRead .txPkt 3 s = .ok 0x68#8 ∧ memReadRange .txPkt 3 3 s = .ok t ∧
        replyByte b s = resolveTelegram .reply (telegramSize t) s) ∨
      (∃ j r, s.phyCursor = 3 ∧ 3 ≤ j ∧ j < 6 ∧ memRead .txPkt j s = .error r ∧ replyByte b s = .fault r) ∨
      ((s.phyCursor = 1 → b = 0x68#8) ∧ (s.phyCursor = 3 → memRead .txPkt 3 s ≠ .ok 0x68#8) ∧
        replyByte b s = completeIfWhole s) := by
  unfold replyByte
  split
  · next h => exact .inl ⟨h.1, h.2, rfl⟩
  · next h =>
    split
    · next h3 =>
      cases hm : memRead .txPkt 3 s with
      | error r => exact .inr (.inr (.inl ⟨3, r, h3, by omega, by omega, hm, rfl⟩))
      | ok sd =>
        rw [withValue_ok]
        split
        · next hsd =>
          subst hsd
          cases hr : memReadRange .txPkt 3 3 s with
          | ok t => exact .inr (.inl ⟨t, h3, rfl, rfl, rfl⟩)
          | error r =>
            obtain ⟨j, h1, h2, h4⟩ := memReadRange_error hr
            exact .inr (.inr (.inl ⟨j, r, h3, h1, h2, h4, rfl⟩))
        · next hsd => exact .inr (.inr (.inr ⟨by omega, fun _ hh => hsd (by cases hh; rfl), rfl⟩))
    · next h3 =>
      refine .inr (.inr (.inr ⟨fun h1 => ?_, fun hh => absurd hh h3, rfl⟩))
      by_contra hb
      exact h ⟨h1, hb⟩

/-- In `ReceivingSdr` the receiver's use of a telegram start is the resolution of the reply. -/
theorem resolveTelegram_reply {s : State} {n : Nat} (h : s.phyState = .receivingSdr) :
    resolveTelegram .reply n s = resolveReply n s := by
  unfold resolveTelegram
  exact if_neg (by simp [h])

/-- A received byte in `ReceivingSdr`, inside the buffer: it is stored and counted, then resolved. -/
theorem rxcHandler_run {s : State} {b : Byte} (h : s.phyState = .receivingSdr) (hc : 3 + s.phyCursor < pktMax) :
    rxcHandler b s =
      replyByte b (setPhyCursor (s.phyCursor + 1) (s.setCell .txPkt (3 + s.phyCursor) b)) := by
  unfold rxcHandler
  rw [if_neg (by simp [h])]
  have hw : memWrite .txPkt (hdrLen + s.phyCursor) b s = .ok (s.setCell .txPkt (3 + s.phyCursor) b) :=
    memWrite_ok_iff.2 ⟨hc, rfl⟩
  rw [hw]; rfl

end Sys2Proof.Machine
end

