-- ==== Sys2Proof/Laws/PerInstr.lean ====
section
/-! SUPPORT. Statements for all instructions, one lemma per constructor. Family EncodingShape: an instruction has an
encoding exactly when its row stands in a byte format, and the encoding is 1 to 3 bytes long. -/

namespace Sys2Proof.Laws.EncodingShape

/-- The encoding's shape (R82, R89, R94, R95; an ENTRY row has none). -/
def Statement (i : Instr) : Prop :=
  (i.format = none ↔ encode i = none) ∧ ∀ w, encode i = some w → 1 ≤ w.length ∧ w.length ≤ 3

theorem nop : Statement .nop := by simp [Statement, Instr.format, encode]
theorem reset : Statement .reset := by simp [Statement, Instr.format, encode]
theorem setConfig : Statement .setConfig := by simp [Statement, Instr.format, encode]
theorem pbSrdReq : Statement .pbSrdReq := by simp [Statement, Instr.format, encode]
theorem pbSrdReply : Statement .pbSrdReply := by simp [Statement, Instr.format, encode]
theorem pbSdnReq : Statement .pbSdnReq := by simp [Statement, Instr.format, encode]
theorem ack : Statement .ack := by simp [Statement, Instr.format, encode]
theorem nack : Statement .nack := by simp [Statement, Instr.format, encode]
theorem reserved08 (low : BitVec 3) : Statement (.reserved08 low) := by simp [Statement, Instr.format, encode]
theorem reserved10 (low : BitVec 4) : Statement (.reserved10 low) := by simp [Statement, Instr.format, encode]
theorem reserved20 (low : BitVec 5) : Statement (.reserved20 low) := by simp [Statement, Instr.format, encode]
theorem reserved40 (low : BitVec 6) : Statement (.reserved40 low) := by simp [Statement, Instr.format, encode]
theorem reserved80 (low : BitVec 7) : Statement (.reserved80 low) := by simp [Statement, Instr.format, encode]
theorem sd1 (use : TelegramUse) : Statement (.sd1 use) := by simp [Statement, Instr.format, encode]
theorem sd2 (use : TelegramUse) (le ler : Byte) : Statement (.sd2 use le ler) := by simp [Statement, Instr.format, encode]
theorem sd3 (use : TelegramUse) : Statement (.sd3 use) := by simp [Statement, Instr.format, encode]
theorem sd4 (use : TelegramUse) : Statement (.sd4 use) := by simp [Statement, Instr.format, encode]
theorem sc (use : TelegramUse) : Statement (.sc use) := by simp [Statement, Instr.format, encode]
theorem sdInvalid (use : TelegramUse) (sd : Byte) : Statement (.sdInvalid use sd) := by simp [Statement, Instr.format, encode]
theorem spiXfer (bIn : Byte) : Statement (.spiXfer bIn) := by simp [Statement, Instr.format, encode]
theorem uartUdre : Statement .uartUdre := by simp [Statement, Instr.format, encode]
theorem uartTxc : Statement .uartTxc := by simp [Statement, Instr.format, encode]
theorem uartRxc (b : Byte) : Statement (.uartRxc b) := by simp [Statement, Instr.format, encode]
theorem uartShift : Statement .uartShift := by simp [Statement, Instr.format, encode]
theorem sdnComplete (val : Nat) : Statement (.sdnComplete val) := by simp [Statement, Instr.format, encode]
theorem sdrSent (val : Nat) : Statement (.sdrSent val) := by simp [Statement, Instr.format, encode]
theorem sdrComplete (n : Nat) : Statement (.sdrComplete n) := by simp [Statement, Instr.format, encode]
theorem sdrError (val : Nat) : Statement (.sdrError val) := by simp [Statement, Instr.format, encode]
theorem requestSdr : Statement .requestSdr := by simp [Statement, Instr.format, encode]
theorem requestSdn : Statement .requestSdn := by simp [Statement, Instr.format, encode]
theorem phyReset : Statement .phyReset := by simp [Statement, Instr.format, encode]
theorem phyReinit (be : BaudEnum) : Statement (.phyReinit be) := by simp [Statement, Instr.format, encode]
theorem finish (ev : FinishEvent) : Statement (.finish ev) := by simp [Statement, Instr.format, encode]
theorem drain : Statement .drain := by simp [Statement, Instr.format, encode]
theorem handlePacket : Statement .handlePacket := by simp [Statement, Instr.format, encode]
theorem queueReply (kind : ReplyKind) : Statement (.queueReply kind) := by simp [Statement, Instr.format, encode]
theorem hostlinkReset : Statement .hostlinkReset := by simp [Statement, Instr.format, encode]
theorem boot : Statement .boot := by simp [Statement, Instr.format, encode]

end Sys2Proof.Laws.EncodingShape
end

