-- ==== Sys2Proof/Tests/Slice0.lean ====
section
/-! SUPPORT. The package's own tests: the well-formedness smoke test, one written-out word for every constructor with an
encoding, one-step tests from the vectors of spec/95_test_vectors.md (named in each comment), and for every obligation
with hypotheses a state and operands that meet them. -/

namespace Sys2Proof.Machine

/-! ## Well-formedness: one ill-formed term for each check -/

/-- R89: 0x68 is a start delimiter, so it is no invalid one. -/
theorem test_wf_sdInvalid : (Instr.sdInvalid .reply 0x68#8).wf = false := by decide

/-- R95: `SdnComplete`, `SdrSent` and `SdrError` carry the value 0. -/
theorem test_wf_values_zero :
    (Instr.sdnComplete 1).wf = false ∧ (Instr.sdrSent 1).wf = false ∧ (Instr.sdrError 1).wf = false := by decide

/-- R95: `SdrComplete` carries 1..255. -/
theorem test_wf_sdrComplete : (Instr.sdrComplete 0).wf = false ∧ (Instr.sdrComplete 256).wf = false := by decide

/-- R173: an SRD reply carries 1..255 bytes. -/
theorem test_wf_queueReply :
    (Instr.queueReply (.srdReply 0)).wf = false ∧ (Instr.queueReply (.srdReply 256)).wf = false := by decide

/-- Terms at the edges of the checks that are well-formed. -/
theorem test_wf_accepts :
    (Instr.sdInvalid .reply 0x69#8).wf = true ∧ (Instr.sdrComplete 255).wf = true ∧
      (Instr.queueReply (.srdReply 1)).wf = true := by decide

/-! ## Decoding: words written out from the encoding tables -/

/-- R82: NOP is command byte 0x00. -/
theorem test_decode_nop : decode (.hostCmd) [0x00#8] = .ok (.nop, []) ∧ encode (.nop) = some [0x00#8] :=
  ⟨rfl, rfl⟩

/-- R82: RESET is 0x01. -/
theorem test_decode_reset : decode (.hostCmd) [0x01#8] = .ok (.reset, []) ∧ encode (.reset) = some [0x01#8] :=
  ⟨rfl, rfl⟩

/-- R82: SET_CONFIG is 0x02. -/
theorem test_decode_setConfig : decode (.hostCmd) [0x02#8] = .ok (.setConfig, []) ∧ encode (.setConfig) = some [0x02#8] :=
  ⟨rfl, rfl⟩

/-- R82: PB_SRD_REQ is 0x03. -/
theorem test_decode_pbSrdReq : decode (.hostCmd) [0x03#8] = .ok (.pbSrdReq, []) ∧ encode (.pbSrdReq) = some [0x03#8] :=
  ⟨rfl, rfl⟩

/-- R82: PB_SRD_REPLY is 0x04. -/
theorem test_decode_pbSrdReply : decode (.hostCmd) [0x04#8] = .ok (.pbSrdReply, []) ∧ encode (.pbSrdReply) = some [0x04#8] :=
  ⟨rfl, rfl⟩

/-- R82: PB_SDN_REQ is 0x05. -/
theorem test_decode_pbSdnReq : decode (.hostCmd) [0x05#8] = .ok (.pbSdnReq, []) ∧ encode (.pbSdnReq) = some [0x05#8] :=
  ⟨rfl, rfl⟩

/-- R82: ACK is 0x06. -/
theorem test_decode_ack : decode (.hostCmd) [0x06#8] = .ok (.ack, []) ∧ encode (.ack) = some [0x06#8] :=
  ⟨rfl, rfl⟩

/-- R82: NACK is 0x07. -/
theorem test_decode_nack : decode (.hostCmd) [0x07#8] = .ok (.nack, []) ∧ encode (.nack) = some [0x07#8] :=
  ⟨rfl, rfl⟩

/-- R93: 0x0F is 00001_111. -/
theorem test_decode_reserved08 : decode (.hostCmd) [0x0F#8] = .ok (.reserved08 0x7#3, []) ∧ encode (.reserved08 0x7#3) = some [0x0F#8] :=
  ⟨rfl, rfl⟩

/-- R93: 0x1A is 0001_1010. -/
theorem test_decode_reserved10 : decode (.hostCmd) [0x1A#8] = .ok (.reserved10 0xA#4, []) ∧ encode (.reserved10 0xA#4) = some [0x1A#8] :=
  ⟨rfl, rfl⟩

/-- R93: 0x3E is 001_11110. -/
theorem test_decode_reserved20 : decode (.hostCmd) [0x3E#8] = .ok (.reserved20 0x1E#5, []) ∧ encode (.reserved20 0x1E#5) = some [0x3E#8] :=
  ⟨rfl, rfl⟩

/-- R93: 0x55 is 01_010101. -/
theorem test_decode_reserved40 : decode (.hostCmd) [0x55#8] = .ok (.reserved40 0x15#6, []) ∧ encode (.reserved40 0x15#6) = some [0x55#8] :=
  ⟨rfl, rfl⟩

/-- R93: 0xFE is 1_1111110. -/
theorem test_decode_reserved80 : decode (.hostCmd) [0xFE#8] = .ok (.reserved80 0x7E#7, []) ∧ encode (.reserved80 0x7E#7) = some [0xFE#8] :=
  ⟨rfl, rfl⟩

/-- R89: SD1. -/
theorem test_decode_sd1 : decode (.telegramSd .reply) [0x10#8] = .ok (.sd1 .reply, []) ∧ encode (.sd1 .reply) = some [0x10#8] :=
  ⟨rfl, rfl⟩

/-- R89: SD2, LE then LEr. -/
theorem test_decode_sd2 : decode (.telegramSd (.request .sdr)) [0x68#8, 0x0A#8, 0x0B#8] = .ok (.sd2 (.request .sdr) 0x0A#8 0x0B#8, []) ∧ encode (.sd2 (.request .sdr) 0x0A#8 0x0B#8) = some [0x68#8, 0x0A#8, 0x0B#8] :=
  ⟨rfl, rfl⟩

/-- R89: SD3. -/
theorem test_decode_sd3 : decode (.telegramSd .reply) [0xA2#8] = .ok (.sd3 .reply, []) ∧ encode (.sd3 .reply) = some [0xA2#8] :=
  ⟨rfl, rfl⟩

/-- R89: SD4. -/
theorem test_decode_sd4 : decode (.telegramSd (.request .sdn)) [0xDC#8] = .ok (.sd4 (.request .sdn), []) ∧ encode (.sd4 (.request .sdn)) = some [0xDC#8] :=
  ⟨rfl, rfl⟩

/-- R89: the single-character telegram. -/
theorem test_decode_sc : decode (.telegramSd .reply) [0xE5#8] = .ok (.sc .reply, []) ∧ encode (.sc .reply) = some [0xE5#8] :=
  ⟨rfl, rfl⟩

/-- R89: vector T15, a near miss of 0x68. -/
theorem test_decode_sdInvalid : decode (.telegramSd .reply) [0x69#8] = .ok (.sdInvalid .reply 0x69#8, []) ∧ encode (.sdInvalid .reply 0x69#8) = some [0x69#8] :=
  ⟨rfl, rfl⟩

/-- R94: code 0 and b_in. -/
theorem test_decode_spiXfer : decode (.event) [0x00#8, 0xA5#8] = .ok (.spiXfer 0xA5#8, []) ∧ encode (.spiXfer 0xA5#8) = some [0x00#8, 0xA5#8] :=
  ⟨rfl, rfl⟩

/-- R94: code 1. -/
theorem test_decode_uartUdre : decode (.event) [0x01#8] = .ok (.uartUdre, []) ∧ encode (.uartUdre) = some [0x01#8] :=
  ⟨rfl, rfl⟩

/-- R94: code 2. -/
theorem test_decode_uartTxc : decode (.event) [0x02#8] = .ok (.uartTxc, []) ∧ encode (.uartTxc) = some [0x02#8] :=
  ⟨rfl, rfl⟩

/-- R94: code 3 and b. -/
theorem test_decode_uartRxc : decode (.event) [0x03#8, 0x16#8] = .ok (.uartRxc 0x16#8, []) ∧ encode (.uartRxc 0x16#8) = some [0x03#8, 0x16#8] :=
  ⟨rfl, rfl⟩

/-- R94: code 4. -/
theorem test_decode_uartShift : decode (.event) [0x04#8] = .ok (.uartShift, []) ∧ encode (.uartShift) = some [0x04#8] :=
  ⟨rfl, rfl⟩

/-- R95: code 0, value 0. -/
theorem test_decode_sdnComplete : decode (.notify) [0x00#8, 0x00#8] = .ok (.sdnComplete 0, []) ∧ encode (.sdnComplete 0) = some [0x00#8, 0x00#8] :=
  ⟨rfl, rfl⟩

/-- R95: code 1, value 0. -/
theorem test_decode_sdrSent : decode (.notify) [0x01#8, 0x00#8] = .ok (.sdrSent 0, []) ∧ encode (.sdrSent 0) = some [0x01#8, 0x00#8] :=
  ⟨rfl, rfl⟩

/-- R95: code 2, value 16 (scenario 2). -/
theorem test_decode_sdrComplete : decode (.notify) [0x02#8, 0x10#8] = .ok (.sdrComplete 16, []) ∧ encode (.sdrComplete 16) = some [0x02#8, 0x10#8] :=
  ⟨rfl, rfl⟩

/-- R95: code 3, value 0. -/
theorem test_decode_sdrError : decode (.notify) [0x03#8, 0x00#8] = .ok (.sdrError 0, []) ∧ encode (.sdrError 0) = some [0x03#8, 0x00#8] :=
  ⟨rfl, rfl⟩

/-- R94, R95, R89: codes above the tables', values R95 does not give, and cut-off encodings are rejected by name. -/
theorem test_decode_rejects :
    decode .event [0x05#8, 0x00#8] = .error (.unknownEvent 0x05#8) ∧
    decode .notify [0x04#8, 0x00#8] = .error (.unknownNotify 0x04#8) ∧
    decode .notify [0x02#8, 0x00#8] = .error (.illFormedValue 0x02#8 0x00#8) ∧
    decode .event [0x03#8] = .error .truncated ∧
    decode (.telegramSd .reply) [0x68#8, 0x0A#8] = .error .truncated := ⟨rfl, rfl, rfl, rfl, rfl⟩

/-- The table's HOSTCMD rows read back: SET_CONFIG is 0x02, and 0x20 lies in 0x20..0x3F. -/
theorem test_decode_tableWord :
    decodeTableWord 8 0x02 = some .setConfig ∧ decodeTableWord 8 0x20 = some (.reserved20 0x00#5) := ⟨rfl, rfl⟩

/-- R96: the codes of `phy_state`, and 4 is none. -/
theorem test_phyState_codes :
    [PhyState.idle, .sendingSdr, .sendingSdn, .receivingSdr].map PhyState.code = [0, 1, 2, 3] ∧
      phyStateOfCode 3 = some .receivingSdr ∧ phyStateOfCode 4 = none := by decide

/-! ## Small states -/

/-- A booted machine with nothing going on, at 9600 bit/s. -/
def testBase : State := { State.reset with booted := true, baud := 0, cfgRxTimeoutMs := 0x11#8 }

/-- The cells `i, i+1, …` holding the bytes. -/
def cellsFrom (i : Nat) : List Byte → Memory
  | [] => []
  | b :: bs => (i, b) :: cellsFrom (i + 1) bs

/-- The base with a received packet in `rx_pkt`. -/
def testPacket (bs : List Byte) : State := { testBase with rxPkt := cellsFrom 0 bs }

/-- The base with a packet received up to its last byte. -/
def testAlmost (bs : List Byte) (expected : Nat) : State :=
  { testPacket bs with rxCursor := bs.length, rxExpected := expected }

/-- A receive in progress: the reply bytes stored so far and the resolved size. -/
def testReceiving (bs : List Byte) (size : Nat) : State :=
  { testBase with
    phyState := .receivingSdr, phyTxRef := .hostRxPayload, phyRxRef := .hostTxPayload, activity := true
    rxEn := true, txPkt := cellsFrom 3 bs, phyCursor := bs.length, phySize := size }

/-- A send in progress: `cursor` of the telegram's bytes are with the UART already. -/
def testSending (st : PhyState) (telegram : List Byte) (size cursor : Nat) : State :=
  { testBase with
    phyState := st, phyTxRef := .hostRxPayload
    phyRxRef := if st = .sendingSdr then .hostTxPayload else .noRef
    activity := true, rts := true
    blocked := true, udreIe := decide (cursor < size), phyTail := decide (cursor = size), rxPkt := cellsFrom 3 telegram
    phyCursor := cursor, phySize := size }

/-- The base with the ACK packet queued and `c` of its bytes drained. -/
def testQueued (c : Nat) : State :=
  { testBase with txPkt := cellsFrom 0 [0x06#8, 0x00#8, 0xF9#8], txLen := 3, txCursor := c, signal := decide (c < 3) }

/-- What a test looks at in the next state; none where there is no next state. -/
def view {α : Type} (f : State → α) : Res → Option α
  | .next t => some (f t)
  | .fault _ => none
  | .refused _ => none

/-- The queued packet and the data-ready line. -/
def State.queuedPacket (t : State) : List (Option Byte) × Nat × Bool :=
  ((List.range t.txLen).map t.txPkt.read, t.txCursor, t.signal)

/-- The fault an instruction stops with. -/
def faultOf : Res → Option Fault
  | .next _ => none
  | .fault r => some r
  | .refused _ => none

/-! ## Host commands (vectors of section 2.6) -/

/-- Vector H4: a no-op with a garbage checksum changes nothing. -/
theorem test_nop_any_checksum :
    view id (exec .handlePacket (testPacket [0x00#8, 0x00#8, 0x55#8])) = some (testPacket [0x00#8, 0x00#8, 0x55#8]) := by
  decide

/-- Vector K1: RESET queues 06 00 F9; `baud` and `cfg_rx_timeout_ms` are kept, the receive is over. -/
theorem test_reset_acks :
    view (fun t => (t.queuedPacket, t.phyState, t.rxEn, t.cfgRxTimeoutMs))
        (exec .reset { testReceiving [0x68#8] 0 with baud := 4 }) =
      some (([some 0x06#8, some 0x00#8, some 0xF9#8], 0, true), .idle, false, 0x11#8) := by decide

/-- Vector B2: RESET keeps `phy_cursor` and `phy_size` and clears the buffers. -/
theorem test_reset_keeps_cursor :
    view (fun t => (t.phyCursor, t.phySize, t.txPkt.read 3)) (exec .reset (testReceiving [0x68#8, 0x0A#8] 0)) =
      some (2, 0, none) := by decide

/-- Vector K2: SET_CONFIG of enum 1, timeout 0x64. -/
theorem test_setConfig_new_baud :
    view (fun t => (t.queuedPacket, t.baud, t.cfgRxTimeoutMs))
        (exec .setConfig (testPacket [0x02#8, 0x03#8, 0x95#8, 0x01#8, 0x64#8, 0x00#8])) =
      some (([some 0x06#8, some 0x00#8, some 0xF9#8], 0, true), 1, 0x64#8) := by decide

/-- Vector K7: enum 10 is rejected; the rate and the timeout stay. -/
theorem test_setConfig_bad_baud :
    view (fun t => (t.queuedPacket, t.baud, t.cfgRxTimeoutMs))
        (exec .setConfig (testPacket [0x02#8, 0x03#8, 0x8C#8, 0x0A#8, 0x64#8, 0x00#8])) =
      some (([some 0x07#8, some 0x00#8, some 0xF8#8], 0, true), 0, 0x11#8) := by decide

/-- Vector K12: an accepted PB_SRD_REQ of the telegram E5. -/
theorem test_pbSrdReq_accepted :
    view (fun t => (t.phyState, t.phySize, t.blocked, t.signal))
        (exec .handlePacket (testPacket [0x03#8, 0x01#8, 0x16#8, 0xE5#8])) =
      some (.sendingSdr, 1, true, false) := by decide

/-- Vector K15: a PB_SRD_REQ whose telegram was never written faults. -/
theorem test_pbSrdReq_unwritten :
    faultOf (exec .handlePacket (testPacket [0x03#8, 0x00#8, 0xFC#8])) = some (.unwrittenRead .rxPkt 3) := by decide

/-- Vector K16: an accepted PB_SDN_REQ of the telegram E5. -/
theorem test_pbSdnReq_accepted :
    view (fun t => (t.phyState, t.blocked, t.phyRxRef)) (exec .handlePacket (testPacket [0x05#8, 0x01#8, 0x14#8, 0xE5#8])) =
      some (.sendingSdn, true, .noRef) := by decide

/-- Vector K17: a PB_SDN_REQ of 68 03 03 is answered with NACK. -/
theorem test_pbSdnReq_invalid :
    view (fun t => (t.phyState, t.queuedPacket))
        (exec .handlePacket (testPacket [0x05#8, 0x03#8, 0x89#8, 0x68#8, 0x03#8, 0x03#8])) =
      some (.idle, [some 0x07#8, some 0x00#8, some 0xF8#8], 0, true) := by decide

/-- Vectors K18, K19, K20: the informational commands change nothing. -/
theorem test_informational :
    view id (exec .handlePacket (testPacket [0x04#8, 0x00#8, 0xFB#8])) = some (testPacket [0x04#8, 0x00#8, 0xFB#8]) ∧
    view id (exec .handlePacket (testPacket [0x06#8, 0x00#8, 0xF9#8])) = some (testPacket [0x06#8, 0x00#8, 0xF9#8]) ∧
    view id (exec .handlePacket (testPacket [0x07#8, 0x00#8, 0xF8#8])) = some (testPacket [0x07#8, 0x00#8, 0xF8#8]) := by
  decide

/-- Vectors K21, K22: reserved codes at both ends of their ranges are answered with NACK. -/
theorem test_reserved_nack :
    view State.queuedPacket (exec .handlePacket (testPacket [0x08#8, 0x00#8, 0xF7#8])) =
        some ([some 0x07#8, some 0x00#8, some 0xF8#8], 0, true) ∧
    view State.queuedPacket (exec .handlePacket (testPacket [0xFF#8, 0x00#8, 0x00#8])) =
        some ([some 0x07#8, some 0x00#8, some 0xF8#8], 0, true) := by decide

/-- Vector K24: a corrupted checksum is answered with NACK and starts no transfer. -/
theorem test_handlePacket_bad_checksum :
    view (fun t => (t.phyState, t.queuedPacket)) (exec .handlePacket (testPacket [0x03#8, 0x01#8, 0x00#8, 0xE5#8])) =
      some (.idle, [some 0x07#8, some 0x00#8, some 0xF8#8], 0, true) := by decide

/-! ## Telegram starts (section 2.1) and checksums (section 2.2) -/

/-- Vectors T1 to T7. -/
theorem test_telegramSize_valid :
    telegramSize [0x10#8] = 6 ∧ telegramSize [0xA2#8] = 14 ∧ telegramSize [0xDC#8] = 3 ∧ telegramSize [0xE5#8] = 1 ∧
    telegramSize [0x68#8, 0x04#8, 0x04#8] = 10 ∧ telegramSize [0x68#8, 0x0A#8, 0x0A#8] = 16 ∧
    telegramSize [0x68#8, 0xF9#8, 0xF9#8] = 255 := by decide

/-- Vectors T8 to T15. -/
theorem test_telegramSize_invalid :
    telegramSize [0x68#8, 0x03#8, 0x03#8] = 0 ∧ telegramSize [0x68#8, 0xFA#8, 0xFA#8] = 0 ∧
    telegramSize [0x68#8, 0x0A#8, 0x0B#8] = 0 ∧ telegramSize [0x68#8, 0x00#8, 0x00#8] = 0 ∧
    telegramSize [0x00#8] = 0 ∧ telegramSize [0x16#8] = 0 ∧ telegramSize [0xFF#8] = 0 ∧
    telegramSize [0x69#8, 0x04#8, 0x04#8] = 0 := by decide

/-- Vectors C1 to C7, C9, C10 and the order of the bytes. -/
theorem test_fcs :
    fcs 0x06#8 0x00#8 [] = 0xF9#8 ∧ fcs 0x07#8 0x00#8 [] = 0xF8#8 ∧ fcs 0x01#8 0x00#8 [] = 0xFE#8 ∧
    fcs 0x02#8 0x03#8 [0x01#8, 0x64#8, 0x00#8] = 0x95#8 ∧ fcs 0x03#8 0x01#8 [0xE5#8] = 0x16#8 ∧
    fcs 0x05#8 0x01#8 [0xE5#8] = 0x14#8 ∧ fcs 0x04#8 0x01#8 [0xE5#8] = 0x15#8 ∧ fcs 0x00#8 0x00#8 [] = 0xFF#8 ∧
    fcs 0x08#8 0x00#8 [] = 0xF7#8 ∧ fcs 0x03#8 0x02#8 [0xFF#8, 0x01#8] = 0xFA#8 := by decide

/-- Vectors T1 and Q7: SD1 as an outgoing telegram in `Idle`. -/
theorem test_sd1_request :
    view (fun t => (t.phyState, t.phySize, t.rts)) (exec (.sd1 (.request .sdn)) testBase) =
      some (.sendingSdn, 6, true) := by decide

/-- Vector T10: SD2 with LE ≠ LEr as an outgoing telegram changes nothing. -/
theorem test_sd2_request_invalid :
    view id (exec (.sd2 (.request .sdr) 0x0A#8 0x0B#8) testBase) = some testBase := by decide

/-- Vector X10: SD2 with LE = 250 as a reply ends it with NACK. -/
theorem test_sd2_reply_error :
    view (fun t => (t.phyState, t.phySize, t.queuedPacket))
        (exec (.sd2 .reply 0xFA#8 0xFA#8) (testReceiving [0x68#8, 0xFA#8, 0xFA#8] 0)) =
      some (.idle, 0, [some 0x07#8, some 0x00#8, some 0xF8#8], 0, true) := by decide

/-- Vectors T2, T3: SD3 and SD4 as a reply's start resolve 14 and 3. -/
theorem test_sd3_sd4_reply :
    view (fun t => (t.phyState, t.phySize)) (exec (.sd3 .reply) (testReceiving [0xA2#8] 0)) = some (.receivingSdr, 14) ∧
    view (fun t => (t.phyState, t.phySize)) (exec (.sd4 .reply) (testReceiving [0xDC#8] 0)) = some (.receivingSdr, 3) := by
  decide

/-- Vector X1: the single-character reply is complete and queued as 04 01 15 E5. -/
theorem test_sc_reply :
    view (fun t => (t.phyState, t.queuedPacket)) (exec (.sc .reply) (testReceiving [0xE5#8] 0)) =
      some (.idle, [some 0x04#8, some 0x01#8, some 0x15#8, some 0xE5#8], 0, true) := by decide

/-- Vector X7: an invalid start ends the reply with NACK. -/
theorem test_sdInvalid_reply :
    view (fun t => (t.phyState, t.rxEn, t.queuedPacket)) (exec (.sdInvalid .reply 0x16#8) (testReceiving [0x16#8] 0)) =
      some (.idle, false, [some 0x07#8, some 0x00#8, some 0xF8#8], 0, true) := by decide

/-! ## UART events (section 2.4) -/

/-- Vector U1: the first byte of a six-byte telegram goes to the UART. -/
theorem test_uartUdre_first :
    view (fun t => (t.uartTxq, t.phyCursor, t.udreIe, t.phyTail))
        (exec .uartUdre (testSending .sendingSdr [0x10#8] 6 0)) = some ([0x10#8], 1, true, false) := by decide

/-- Vector U3: the last byte disables the source and sets the tail flag. -/
theorem test_uartUdre_last :
    view (fun t => (t.uartTxq, t.phyCursor, t.udreIe, t.phyTail))
        (exec .uartUdre (testSending .sendingSdn [0xE5#8] 1 0)) = some ([0xE5#8], 1, false, true) := by decide

/-- Vector U7: the end of an SDR send. -/
theorem test_uartTxc_sdr :
    view (fun t => (t.phyState, t.rts, t.rxEn, t.phyCursor, t.phySize, t.blocked))
        (exec .uartTxc (testSending .sendingSdr [0xE5#8] 1 1)) =
      some (.receivingSdr, false, true, 0, 0, false) := by decide

/-- Vector U8: the end of an SDN send queues ACK. -/
theorem test_uartTxc_sdn :
    view (fun t => (t.phyState, t.blocked, t.queuedPacket)) (exec .uartTxc (testSending .sendingSdn [0xE5#8] 1 1)) =
      some (.idle, false, [some 0x06#8, some 0x00#8, some 0xF9#8], 0, true) := by decide

/-- Vector X8: LE ≠ LEr is found at the third reply byte. -/
theorem test_uartRxc_bad_length :
    view (fun t => (t.phyState, t.phyCursor, t.txPkt.read 5, t.signal))
        (exec (.uartRxc 0x06#8) (testReceiving [0x68#8, 0x05#8] 0)) = some (.idle, 3, some 0x06#8, true) := by decide

/-- Vector X2: the last byte of an SD4 reply queues 04 03 19 DC 02 01. -/
theorem test_uartRxc_last :
    view State.queuedPacket (exec (.uartRxc 0x01#8) (testReceiving [0xDC#8, 0x02#8] 3)) =
      some ([some 0x04#8, some 0x03#8, some 0x19#8, some 0xDC#8, some 0x02#8, some 0x01#8], 0, true) := by decide

/-- Vector U5: the queued byte reaches the line with `rts` true. -/
theorem test_uartShift :
    view (fun t => (t.uartTxq, t.wireLog)) (exec .uartShift { testBase with uartTxq := [0xE5#8], rts := true }) =
      some ([], [(0xE5#8, true)]) := by decide

/-! ## The SPI exchange (section 2.5) -/

/-- Vector H8, third tick: the last queued byte goes out and the data-ready line drops. -/
theorem test_spiXfer_drains :
    view (fun t => (t.hostLog, t.txCursor, t.signal)) (exec (.spiXfer 0x00#8) (testQueued 2)) =
      some ([0xF9#8], 3, false) := by decide

/-- Vector H6, third tick: a checksum mismatch queues NACK and starts the assembler anew. -/
theorem test_spiXfer_completes :
    view (fun t => (t.rxCursor, t.rxExpected, t.queuedPacket)) (exec (.spiXfer 0xF8#8) (testAlmost [0x06#8, 0x00#8] 0)) =
      some (0, 0, [some 0x07#8, some 0x00#8, some 0xF8#8], 0, true) := by decide

/-- Vector H8, first tick: `drain` moves past the first byte of the ACK. -/
theorem test_drain : view (fun t => (t.txCursor, t.signal)) (exec .drain (testQueued 0)) = some (1, true) := by decide

/-! ## PhyLink's events (section 2.7) and the entry points (sections 2.3, 2.8) -/

/-- Vector E1. -/
theorem test_sdnComplete :
    view (fun t => (t.blocked, t.queuedPacket)) (exec (.sdnComplete 0) { testBase with blocked := true }) =
      some (false, [some 0x06#8, some 0x00#8, some 0xF9#8], 0, true) := by decide

/-- Vector E2. -/
theorem test_sdrSent :
    view id (exec (.sdrSent 0) { testBase with blocked := true }) = some testBase := by decide

/-- Vector E3. -/
theorem test_sdrComplete :
    view State.queuedPacket (exec (.sdrComplete 1) { testBase with txPkt := cellsFrom 3 [0xE5#8] }) =
      some ([some 0x04#8, some 0x01#8, some 0x15#8, some 0xE5#8], 0, true) := by decide

/-- Vector E5. -/
theorem test_sdrError :
    view (fun t => (t.blocked, t.queuedPacket)) (exec (.sdrError 0) testBase) =
      some (false, [some 0x07#8, some 0x00#8, some 0xF8#8], 0, true) := by decide

/-- Vector Q6. -/
theorem test_requestSdr :
    view (fun t => (t.phyState, t.phyTxRef, t.phyRxRef, t.phySize, t.udreIe))
        (exec .requestSdr { testBase with rxPkt := cellsFrom 3 [0xE5#8] }) =
      some (.sendingSdr, .hostRxPayload, .hostTxPayload, 1, true) := by decide

/-- Vector Q8. -/
theorem test_requestSdr_unwritten : faultOf (exec .requestSdr testBase) = some (.unwrittenRead .rxPkt 3) := by decide

/-- Vector Q2: busy, nothing changes. -/
theorem test_requestSdn_busy :
    view id (exec .requestSdn (testReceiving [0x68#8, 0x0A#8] 0)) = some (testReceiving [0x68#8, 0x0A#8] 0) := by decide

/-- Vector Q9. -/
theorem test_phyReset :
    view (fun t => (t.phyState, t.rxEn, t.activity, t.phyCursor)) (exec .phyReset (testReceiving [0x68#8] 0)) =
      some (.idle, false, false, 1) := by decide

/-- Vector Q10. -/
theorem test_phyReinit :
    view (fun t => (t.phyState, t.baud, t.bitRate)) (exec (.phyReinit 3) (testReceiving [0x68#8] 0)) =
      some (.idle, 3, 93750) := by decide

/-- Vector X1 through `finish`: the reply of one byte is queued. -/
theorem test_finish :
    view (fun t => (t.phyState, t.queuedPacket)) (exec (.finish .complete) (testReceiving [0xE5#8] 1)) =
      some (.idle, [some 0x04#8, some 0x01#8, some 0x15#8, some 0xE5#8], 0, true) := by decide

/-- R172: the NACK packet. -/
theorem test_queueReply :
    view State.queuedPacket (exec (.queueReply .nack) testBase) =
      some ([some 0x07#8, some 0x00#8, some 0xF8#8], 0, true) := by decide

/-- R174: the link's fields are cleared, PhyLink's stay. -/
theorem test_hostlinkReset :
    view (fun t => (t.txLen, t.signal, t.txPkt.read 0, t.phyState))
        (exec .hostlinkReset { testQueued 1 with phyState := .receivingSdr }) =
      some (0, false, none, .receivingSdr) := by decide

/-- Vector B1, but for the rate: after boot every field is as at power-on. -/
theorem test_boot : view id (exec .boot State.reset) = some { State.reset with booted := true } := rfl

/-! ## The step -/

/-- The very next step after `withFetchWord` runs the command: RESET queues 06 00 F9. -/
theorem test_fetchWord_reset :
    view State.queuedPacket (step (State.reset.withFetchWord 8 0x01)) =
      some ([some 0x06#8, some 0x00#8, some 0xF9#8], 0, true) := by decide

/-- A reserved code placed the same way is answered with NACK. -/
theorem test_fetchWord_reserved :
    view State.queuedPacket (step (State.reset.withFetchWord 8 0x80)) =
      some ([some 0x07#8, some 0x00#8, some 0xF8#8], 0, true) := by decide

/-- The first step from power-on is boot, the second finds no event and changes nothing. -/
theorem test_step_boots :
    view State.booted (step State.reset) = some true ∧ view id (step testBase) = some testBase := ⟨rfl, by decide⟩

/-- Vector K15 as a step: the fault is recorded, and then there is no further step. -/
theorem test_step_records_fault :
    view State.fault (step { testAlmost [0x03#8, 0x00#8] 0 with script := [0x00#8, 0xFC#8] }) =
      some (some (.unwrittenRead .rxPkt 3)) ∧
    faultOf (step { testBase with fault := some (.unwrittenRead .rxPkt 3) }) = some (.unwrittenRead .rxPkt 3) := by decide

/-! ## Witnesses: for every obligation with hypotheses, data that meet them, one theorem per obligation -/

/-- The ACK packet queued, nothing drained yet. -/
theorem test_byteOut : (testQueued 0).byteOut = some 0x06#8 ∧ testBase.byteOut = some 0x00#8 := by decide

theorem test_witness_DecodeOfEncodeIsIdentity :
    (Instr.sdrComplete 255).wf = true ∧ (Instr.sdrComplete 255).format = some .notify ∧
      encode (.sdrComplete 255) = some [0x02#8, 0xFF#8] := ⟨rfl, rfl, rfl⟩

theorem test_witness_EncodeOfDecodeIsIdentity :
    decode (.telegramSd .reply) [0x68#8, 0x04#8, 0x04#8, 0x68#8] = .ok (.sd2 .reply 0x04#8 0x04#8, [0x68#8]) := rfl

/-- The three clauses: an event that steps, one that faults, one that is not admitted. -/
theorem test_witness_StepRunsDecodedEvent :
    (testBase.running ∧ (view id (exec (.spiXfer 0x00#8) testBase)).isSome = true) ∧
    ((testAlmost [0x03#8, 0x00#8] 0).running ∧
      faultOf (exec (.spiXfer 0xFC#8) (testAlmost [0x03#8, 0x00#8] 0)) = some (.unwrittenRead .rxPkt 3)) ∧
    exec .uartShift testBase = .refused .eventNotAdmitted ∧
    decode .event [0x00#8, 0xFC#8] = .ok (.spiXfer 0xFC#8, []) ∧ decode .event [0x04#8] = .ok (.uartShift, []) :=
  ⟨by decide, by decide, rfl, rfl, rfl⟩

theorem test_witness_BootComesBeforeEvents : State.reset.fault = none ∧ State.reset.booted = false := ⟨rfl, rfl⟩

theorem test_witness_FaultedStateTakesNoStep :
    ({ testBase with fault := some (.unwrittenRead .rxPkt 3) } : State).fault = some (.unwrittenRead .rxPkt 3) := rfl

theorem test_witness_IdleStepChangesNothing :
    testBase.running ∧ testBase.script = [] ∧
      ({ testBase with script := [0x05#8] } : State).running ∧ decode .event [0x05#8] = .error (.unknownEvent 0x05#8) :=
  ⟨by decide, rfl, by decide, rfl⟩

/-- Both sides of each admission. -/
theorem test_witness_EventsAreAdmittedAsRuled :
    testBase.running ∧ admitsUdre testBase = false ∧ admitsTxc testBase = true ∧ admitsRxc testBase = false ∧
    admitsShift testBase = false ∧ (testReceiving [] 0).running ∧ admitsRxc (testReceiving [] 0) = true ∧
    (testSending .sendingSdr [0x10#8] 6 0).running ∧ admitsUdre (testSending .sendingSdr [0x10#8] 6 0) = true ∧
    ({ testBase with uartTxq := [0x16#8] } : State).running ∧ admitsShift { testBase with uartTxq := [0x16#8] } = true ∧
    admitsTxc { testBase with uartTxq := [0x16#8] } = false := by decide

/-- A payload of 2 bytes; a payload of 3 bytes with the baud enum 10. -/
theorem test_witness_SetConfigRejections :
    (testPacket [0x02#8, 0x02#8, 0x96#8, 0x01#8, 0x64#8]).rxPkt.read 1 = some 0x02#8 ∧
    (testPacket [0x02#8, 0x03#8, 0x8C#8, 0x0A#8, 0x64#8, 0x00#8]).rxPkt.read 1 = some 0x03#8 ∧
    (testPacket [0x02#8, 0x03#8, 0x8C#8, 0x0A#8, 0x64#8, 0x00#8]).rxPkt.read 3 = some 0x0A#8 := by decide

theorem test_witness_SetConfigWithCurrentBaud :
    let s := testPacket [0x02#8, 0x03#8, 0xC7#8, 0x00#8, 0x32#8, 0x01#8]
    s.rxPkt.read 1 = some 0x03#8 ∧ s.rxPkt.read 3 = some 0x00#8 ∧ s.rxPkt.read 4 = some 0x32#8 ∧
      (0x00#8).toNat = s.baud.val := by decide

/-- The largest baud enum, 9. -/
theorem test_witness_SetConfigWithNewBaud :
    let s := testPacket [0x02#8, 0x03#8, 0x8D#8, 0x09#8, 0x64#8, 0x00#8]
    s.rxPkt.read 1 = some 0x03#8 ∧ s.rxPkt.read 3 = some 0x09#8 ∧ s.rxPkt.read 4 = some 0x64#8 ∧
      (0x09#8).toNat = (9 : BaudEnum).val ∧ (9 : BaudEnum) ≠ s.baud := by decide

/-- A single-character telegram, and the smallest SD2. -/
theorem test_witness_SrdRequestAccepted :
    let s := testPacket [0x03#8, 0x01#8, 0x16#8, 0xE5#8]
    let u := testPacket [0x03#8, 0x03#8, 0x89#8, 0x68#8, 0x04#8, 0x04#8]
    s.phyState = .idle ∧ s.rxPkt.read 3 = some 0xE5#8 ∧ memReadRange .rxPkt 3 1 s = .ok [0xE5#8] ∧
      telegramSize [0xE5#8] ≠ 0 ∧ u.phyState = .idle ∧ u.rxPkt.read 3 = some 0x68#8 ∧
      memReadRange .rxPkt 3 3 u = .ok [0x68#8, 0x04#8, 0x04#8] ∧ telegramSize [0x68#8, 0x04#8, 0x04#8] ≠ 0 :=
  ⟨rfl, rfl, rfl, by decide, rfl, rfl, rfl, by decide⟩

/-- The largest SD2. -/
theorem test_witness_SdnRequestAccepted :
    let s := testPacket [0x05#8, 0x03#8, 0x9D#8, 0x68#8, 0xF9#8, 0xF9#8]
    s.phyState = .idle ∧ s.rxPkt.read 3 = some 0x68#8 ∧
      memReadRange .rxPkt 3 3 s = .ok [0x68#8, 0xF9#8, 0xF9#8] ∧ telegramSize [0x68#8, 0xF9#8, 0xF9#8] ≠ 0 :=
  ⟨rfl, rfl, rfl, by decide⟩

/-- A request while receiving; a telegram starting with 00. -/
theorem test_witness_RequestRejections :
    (testReceiving [] 0).phyState ≠ .idle ∧ (testPacket [0x03#8, 0x01#8, 0xFB#8, 0x00#8]).phyState = .idle ∧
      (testPacket [0x03#8, 0x01#8, 0xFB#8, 0x00#8]).rxPkt.read 3 = some 0x00#8 ∧
      memReadRange .rxPkt 3 1 (testPacket [0x03#8, 0x01#8, 0xFB#8, 0x00#8]) = .ok [0x00#8] ∧ telegramSize [0x00#8] = 0 :=
  ⟨by decide, rfl, rfl, rfl, rfl⟩

/-- An unwritten telegram; 0x68 alone; 0x68 and LE; and a send of six bytes of which one is written. -/
theorem test_witness_RequestOfUnwrittenTelegramFaults :
    let s := testPacket [0x03#8, 0x00#8, 0xFC#8]
    let u := testPacket [0x03#8, 0x01#8, 0x93#8, 0x68#8]
    let w := testPacket [0x03#8, 0x02#8, 0x8E#8, 0x68#8, 0x04#8]
    let x := testSending .sendingSdr [0x10#8] 6 1
    (s.phyState = .idle ∧ s.rxPkt.read 3 = none) ∧
    (u.phyState = .idle ∧ u.rxPkt.read 3 = some 0x68#8 ∧ u.rxPkt.read 4 = none) ∧
    (w.phyState = .idle ∧ w.rxPkt.read 3 = some 0x68#8 ∧ w.rxPkt.read 4 = some 0x04#8 ∧ w.rxPkt.read 5 = none) ∧
    (x.running ∧ admitsUdre x = true ∧ x.phyState = .sendingSdr ∧ x.phyCursor < x.phySize ∧ x.phyCursor < 255 ∧
      x.rxPkt.read (3 + x.phyCursor) = none) := by decide

/-- R114: the last telegram byte of the largest send, unwritten: the cell is 257. -/
theorem test_witness_UnwrittenLastByte :
    let x := testSending .sendingSdn [0x68#8, 0xF9#8, 0xF9#8] 255 254
    x.running ∧ admitsUdre x = true ∧ x.phyState = .sendingSdn ∧ x.phyCursor < x.phySize ∧ x.phyCursor < 255 ∧
      x.rxPkt.read (3 + x.phyCursor) = none := by decide

theorem test_witness_TelegramSizeIsAsTabled :
    0x69#8 ≠ 0x10#8 ∧ 0x69#8 ≠ 0xA2#8 ∧ 0x69#8 ≠ 0xDC#8 ∧ 0x69#8 ≠ 0xE5#8 ∧ 0x69#8 ≠ 0x68#8 := by decide

theorem test_witness_TelegramSizeDependsOnlyOnStart : 0x10#8 ≠ 0x68#8 := by decide

theorem test_witness_OutgoingStartDelimiters :
    testBase.phyState = .idle ∧ (Instr.sdInvalid (.request .sdr) 0x16#8).wf = true := by decide

/-- A reply after its first byte, with E5 stored; an invalid start; a reply after its third byte. -/
theorem test_witness_ReplyStartDelimiters :
    ((testReceiving [0xE5#8] 0).phyState = .receivingSdr ∧ (testReceiving [0xE5#8] 0).phyCursor = 1 ∧
      (testReceiving [0xE5#8] 0).txPkt.read 3 = some 0xE5#8) ∧
    (Instr.sdInvalid .reply 0x16#8).wf = true ∧
    (testReceiving [0x68#8, 0xF9#8, 0xF9#8] 0).phyState = .receivingSdr ∧
    (testReceiving [0x68#8, 0xF9#8, 0xF9#8] 0).phyCursor = 3 := by decide

/-- Not the last byte, and the last one. -/
theorem test_witness_UdreQueuesNextByte :
    let s := testSending .sendingSdr [0x10#8, 0x02#8] 6 0
    let u := testSending .sendingSdn [0xE5#8] 1 0
    (s.running ∧ admitsUdre s = true ∧ s.phyState = .sendingSdr ∧ s.phyCursor < s.phySize ∧ s.phyCursor < 255 ∧
      s.rxPkt.read (3 + s.phyCursor) = some 0x10#8) ∧
    (u.running ∧ admitsUdre u = true ∧ u.phyState = .sendingSdn ∧ u.phyCursor + 1 = u.phySize ∧
      u.rxPkt.read (3 + u.phyCursor) = some 0xE5#8) := by decide

/-- Vector U4, and a send whose cursor is at its size. -/
theorem test_witness_UdreWithNothingToSend :
    ({ testBase with udreIe := true } : State).running ∧ admitsUdre { testBase with udreIe := true } = true ∧
    testBase.phyState = .idle ∧
    admitsUdre { testSending .sendingSdr [0xE5#8] 1 1 with udreIe := true } = true ∧
    (testSending .sendingSdr [0xE5#8] 1 1).phySize ≤ (testSending .sendingSdr [0xE5#8] 1 1).phyCursor := by decide

theorem test_witness_TxcEndsSdrSend :
    let s := testSending .sendingSdr [0xE5#8] 1 1
    s.running ∧ s.uartTxq = [] ∧ s.phyTail = true ∧ s.phyState = .sendingSdr := by decide

theorem test_witness_TxcEndsSdnSend :
    let s := testSending .sendingSdn [0xE5#8] 1 1
    s.running ∧ s.uartTxq = [] ∧ s.phyTail = true ∧ s.phyState = .sendingSdn := by decide

theorem test_witness_TxcOutsideTail :
    testBase.running ∧ testBase.uartTxq = [] ∧ testBase.phyTail = false ∧
    ({ testBase with phyTail := true } : State).running ∧ testBase.phyState = .idle := by decide

theorem test_witness_ShiftPutsByteOnWire :
    ({ testBase with uartTxq := [0x10#8, 0x02#8] } : State).running ∧
    ({ testBase with uartTxq := [0x10#8, 0x02#8] } : State).uartTxq = 0x10#8 :: [0x02#8] := by decide

/-- Outside `ReceivingSdr`; a first byte; the third byte of a 0x68 reply; the third of an SD4 reply, which completes it;
the second byte of an unresolved reply. -/
theorem test_witness_RxcStoresAndResolves :
    ({ testBase with rxEn := true } : State).running ∧ testBase.phyState ≠ .receivingSdr ∧
    ((testReceiving [] 0).running ∧ (testReceiving [] 0).rxEn = true ∧ (testReceiving [] 0).phyState = .receivingSdr ∧
      (testReceiving [] 0).phyCursor = 0 ∧ 0xE5#8 ≠ 0x68#8) ∧
    ((testReceiving [0x68#8, 0x0A#8] 0).phyCursor = 2 ∧ (testReceiving [0x68#8, 0x0A#8] 0).txPkt.read 3 = some 0x68#8 ∧
      (testReceiving [0x68#8, 0x0A#8] 0).txPkt.read 4 = some 0x0A#8) ∧
    ((testReceiving [0xDC#8, 0x02#8] 3).phyCursor + 1 = (testReceiving [0xDC#8, 0x02#8] 3).phySize ∧
      (testReceiving [0xDC#8, 0x02#8] 3).txPkt.read 3 = some 0xDC#8 ∧ 0xDC#8 ≠ 0x68#8) ∧
    ((testReceiving [0x68#8] 0).phyCursor = 1 ∧ (testReceiving [0x68#8] 0).phySize = 0) := by decide

theorem test_witness_RxcStoresAndResolves_decodes :
    decode (.telegramSd .reply) [0xE5#8] = .ok (.sc .reply, []) := rfl

/-- The reply of the largest telegram, drained to its end: `tx_cursor` = `tx_len` = 258 (R173, R141). -/
def testDrained : State := { testBase with txLen := pktMax, txCursor := pktMax }

/-- With a byte queued, and with the longest packet exhausted. -/
theorem test_witness_BlockedLinkDropsByte :
    let s : State := { testQueued 0 with blocked := true }
    let u : State := { testDrained with blocked := true }
    (s.running ∧ s.blocked = true ∧ s.byteOut = some 0x06#8 ∧ (s.txCursor < s.txLen → s.txCursor < pktMax)) ∧
    (u.running ∧ u.blocked = true ∧ u.byteOut = some 0x00#8 ∧ (u.txCursor < u.txLen → u.txCursor < pktMax)) := by
  decide

/-- With nothing queued, and with the longest packet exhausted. -/
theorem test_witness_LeadingNopIsDiscarded :
    let s := testBase
    let u := testDrained
    (s.running ∧ s.rxCursor = 0 ∧ s.byteOut = some 0x00#8 ∧ (s.txCursor < s.txLen → s.txCursor < pktMax)) ∧
    (u.running ∧ u.rxCursor = 0 ∧ u.byteOut = some 0x00#8 ∧ (u.txCursor < u.txLen → u.txCursor < pktMax)) := by
  decide

/-- A first byte that is not 00 with the longest packet exhausted, and a third byte after a payload size of 3. -/
theorem test_witness_SpiByteIsStored :
    let s := testDrained
    let u := testAlmost [0x02#8, 0x03#8] 0
    (s.running ∧ s.blocked = false ∧ s.byteOut = some 0x00#8 ∧ (s.txCursor < s.txLen → s.txCursor < pktMax) ∧
      s.rxCursor < pktMax ∧ 0x02#8 ≠ 0x00#8 ∧ s.rxCursor ≠ 2 ∧ s.rxCursor < 2) ∧
    (u.running ∧ u.blocked = false ∧ u.byteOut = some 0x00#8 ∧ (u.txCursor < u.txLen → u.txCursor < pktMax) ∧
      u.rxCursor = 2 ∧ u.rxPkt.read 1 = some 0x03#8) := by
  decide

/-- A three-byte packet with the longest packet exhausted, and a four-byte packet, each before its last byte. -/
theorem test_witness_LastByteRunsPacket :
    let s : State := { testAlmost [0x06#8, 0x00#8] 0 with txLen := pktMax, txCursor := pktMax }
    let u := testAlmost [0x03#8, 0x01#8, 0x16#8] 4
    (s.running ∧ s.blocked = false ∧ s.byteOut = some 0x00#8 ∧ (s.txCursor < s.txLen → s.txCursor < pktMax) ∧
      s.rxCursor < pktMax ∧ s.rxCursor = 2 ∧ s.rxPkt.read 1 = some 0x00#8) ∧
    (u.running ∧ u.blocked = false ∧ u.byteOut = some 0x00#8 ∧ (u.txCursor < u.txLen → u.txCursor < pktMax) ∧
      3 ≤ u.rxCursor ∧ u.rxCursor + 1 = u.rxExpected) := by
  decide

/-- The packet of vector K15 faults where it is handled: the second clause of the same statement. -/
theorem test_witness_LastByteRunsPacket_fault :
    faultOf (exec .handlePacket { testPacket [0x03#8, 0x00#8, 0xFC#8] with rxCursor := 3, rxExpected := 3 }) =
      some (.unwrittenRead .rxPkt 3) := by decide

/-- The packets of vectors K24 (mismatch) and K12 (match). -/
theorem test_witness_PacketValidation :
    let s := testPacket [0x03#8, 0x01#8, 0x00#8, 0xE5#8]
    s.rxPkt.read 0 = some 0x03#8 ∧ s.rxPkt.read 1 = some 0x01#8 ∧ s.rxPkt.read 2 = some 0x00#8 ∧
      memReadRange .rxPkt 3 1 s = .ok [0xE5#8] ∧ fcs 0x03#8 0x01#8 [0xE5#8] = 0x16#8 := ⟨rfl, rfl, rfl, rfl, by decide⟩

/-- Vector K23's mismatch, K18's informational command, K22's reserved code. -/
theorem test_witness_HandledPacketAnswers :
    memReadRange .rxPkt 0 3 (testPacket [0x80#8, 0x00#8, 0x00#8]) = .ok [0x80#8, 0x00#8, 0x00#8] ∧
    fcs 0x80#8 0x00#8 [] = 0x7F#8 ∧
    memReadRange .rxPkt 0 3 (testPacket [0x04#8, 0x00#8, 0xFB#8]) = .ok [0x04#8, 0x00#8, 0xFB#8] ∧
    fcs 0x04#8 0x00#8 [] = 0xFB#8 ∧
    memReadRange .rxPkt 0 3 (testPacket [0xFF#8, 0x00#8, 0x00#8]) = .ok [0xFF#8, 0x00#8, 0x00#8] ∧
    fcs 0xFF#8 0x00#8 [] = 0x00#8 := ⟨rfl, by decide, rfl, by decide, rfl, by decide⟩

theorem test_witness_ChecksumRoundTrip :
    (testPacket [0x00#8, 0x00#8, 0x55#8]).rxPkt.read 0 = some 0x00#8 ∧
    memReadRange .rxPkt 0 4 (testPacket [0x03#8, 0x01#8, 0x16#8, 0xE5#8]) =
      .ok ([0x03#8, BitVec.ofNat 8 1, fcs 0x03#8 (BitVec.ofNat 8 1) [0xE5#8]] ++ [0xE5#8]) := ⟨rfl, rfl⟩

/-- A packet that says 2 payload bytes and holds 1; an unwritten buffer; a packet of one byte. -/
theorem test_witness_ChecksumIsComplementOfSum :
    let s := testPacket [0x03#8, 0x02#8, 0x00#8, 0xE5#8]
    [0xFF#8, 0x01#8].Perm [0x01#8, 0xFF#8] ∧ s.rxPkt.read 0 = some 0x03#8 ∧ s.rxPkt.read 1 = some 0x02#8 ∧
      s.rxPkt.read 2 = some 0x00#8 ∧ 1 < (0x02#8).toNat ∧ s.rxPkt.read (3 + 1) = none ∧
      testBase.rxPkt.read 0 = none ∧ (testPacket [0x03#8]).rxPkt.read 0 = some 0x03#8 ∧
      (testPacket [0x03#8]).rxPkt.read 1 = none := by decide

/-- A receive in progress with a SET_CONFIG of enum 1 in `rx_pkt`. -/
theorem test_witness_SdrSentClearsBlocked :
    let s : State := { testReceiving [0x68#8] 0 with rxPkt := cellsFrom 0 [0x02#8, 0x03#8, 0x95#8, 0x01#8, 0x64#8, 0x00#8] }
    s.phyState = .receivingSdr ∧ s.rxPkt.read 1 = some 0x03#8 ∧ s.rxPkt.read 3 = some 0x01#8 ∧
      s.rxPkt.read 4 = some 0x64#8 ∧ (0x01#8).toNat = (1 : BaudEnum).val ∧ (1 : BaudEnum) ≠ s.baud := by decide

theorem test_witness_SdrCompleteQueuesReply :
    memReadRange .txPkt 3 [0xE5#8].length (testReceiving [0xE5#8] 1) = .ok [0xE5#8] := rfl

theorem test_witness_QueueReplyBuildsPacket :
    memReadRange .txPkt 3 [0xDC#8, 0x02#8].length (testReceiving [0xDC#8, 0x02#8] 3) = .ok [0xDC#8, 0x02#8] := rfl

theorem test_witness_RepliesTouchOnlyHeader :
    (view id (exec (.sdrComplete 1) (testReceiving [0xE5#8] 1))).isSome = true ∧
    (view id (exec (.reserved40 0x15#6) testBase)).isSome = true := by decide

theorem test_witness_EntryRequests :
    (testReceiving [] 0).phyState ≠ .idle ∧ (testPacket [0x03#8, 0x01#8, 0x16#8, 0xE5#8]).phyState = .idle ∧
    (testPacket [0x03#8, 0x01#8, 0x16#8, 0xE5#8]).rxPkt.read 3 = some 0xE5#8 ∧
    memReadRange .rxPkt 3 1 (testPacket [0x03#8, 0x01#8, 0x16#8, 0xE5#8]) = .ok [0xE5#8] ∧
    telegramSize [0xE5#8] ≠ 0 ∧
    memReadRange .rxPkt 3 3 (testPacket [0x05#8, 0x03#8, 0x89#8, 0x68#8, 0x03#8, 0x03#8]) =
      .ok [0x68#8, 0x03#8, 0x03#8] ∧
    telegramSize [0x68#8, 0x03#8, 0x03#8] = 0 := ⟨by decide, rfl, rfl, rfl, by decide, rfl, rfl⟩

theorem test_witness_FinishEndsReceive :
    (testReceiving [0xE5#8] 1).phyCursor = [0xE5#8].length ∧
    memReadRange .txPkt 3 [0xE5#8].length (testReceiving [0xE5#8] 1) = .ok [0xE5#8] := ⟨rfl, rfl⟩

/-- A queued byte; an exhausted packet; a queued byte that was never written. -/
theorem test_witness_DrainGivesNextByte :
    ((testQueued 2).txCursor < (testQueued 2).txLen ∧ (testQueued 2).txCursor < pktMax ∧
      (testQueued 2).txPkt.read (testQueued 2).txCursor = some 0xF9#8) ∧
    (testQueued 3).txLen ≤ (testQueued 3).txCursor ∧
    (({ testBase with txLen := 1 } : State).txCursor < 1 ∧
      ({ testBase with txLen := 1 } : State).txPkt.read 0 = none) := by decide

theorem test_witness_UartEventsFrame :
    (view id (exec .uartTxc (testSending .sendingSdn [0xE5#8] 1 1))).isSome = true ∧
    (view id (exec .uartUdre (testSending .sendingSdr [0x10#8] 6 0))).isSome = true ∧
    (view id (exec (.uartRxc 0x02#8) (testReceiving [0xDC#8] 3))).isSome = true := by decide

theorem test_witness_HostCannotTouchSend :
    (testSending .sendingSdr [0x10#8] 6 0).blocked = true ∧
    (view id (exec (.spiXfer 0x01#8) (testSending .sendingSdr [0x10#8] 6 0))).isSome = true := by decide

/-- A step that puts a byte on the line, and one that hands the queued packet's next byte to the host. -/
theorem test_witness_LinksMoveOneByteInOrder :
    view State.wireLog (step { testBase with uartTxq := [0xE5#8], script := [0x04#8] }) = some [(0xE5#8, false)] ∧
    view State.hostLog (step { testQueued 0 with script := [0x00#8, 0x00#8] }) = some [0x06#8] := by
  decide

/-- A send of six bytes of which only the first is written: the invariant holds, and the next step faults on cell 4. -/
theorem test_witness_invariants :
    (testSending .sendingSdr [0x10#8] 6 1).Inv where
  rxEn := by decide
  udre := by decide
  tail := by decide
  blocked := by decide
  refs := by decide
  signal := by decide
  assembler := by decide
  drain := by decide
  cursor := by decide
  txq := by decide
  buffers := by decide
  written := ⟨fun i h => absurd h (Nat.not_lt_zero i), fun i h => absurd h (Nat.not_lt_zero i), by decide⟩

/-- The invariant says nothing of the script. -/
theorem test_inv_script {s : State} (rest : List Byte) (h : s.Inv) : (setScript rest s).Inv :=
  ⟨h.rxEn, h.udre, h.tail, h.blocked, h.refs, h.signal, h.assembler, h.drain, h.cursor, h.txq, h.buffers, h.written⟩

/-- A host byte during that send: the link is blocked, so the step only logs the byte out. -/
theorem test_witness_StepKeepsInvariants :
    (setScript [0x00#8, 0x01#8] (testSending .sendingSdr [0x10#8] 6 1)).Inv ∧
      view State.hostLog (step (setScript [0x00#8, 0x01#8] (testSending .sendingSdr [0x10#8] 6 1))) = some [0x00#8] :=
  ⟨test_inv_script _ test_witness_invariants, by decide⟩

theorem test_witness_OnlyOutgoingTelegramFaults :
    (setScript [0x01#8] (testSending .sendingSdr [0x10#8] 6 1)).Inv ∧
    (setScript [0x01#8] (testSending .sendingSdr [0x10#8] 6 1)).fault = none ∧
      view State.fault (step (setScript [0x01#8] (testSending .sendingSdr [0x10#8] 6 1))) =
        some (some (.unwrittenRead .rxPkt 4)) := ⟨test_inv_script _ test_witness_invariants, rfl, by decide⟩

/-- Both kinds of send, of one byte. -/
theorem test_witness_SendReachesWire :
    let s : State := { testSending .sendingSdr [0xE5#8] 1 0 with script := sendScript 1 }
    let u : State := { testSending .sendingSdn [0xE5#8] 1 0 with script := sendScript 1 ++ [0x02#8] }
    (s.running ∧ s.phyState = sendState .sdr ∧ s.phySize = [0xE5#8].length ∧ s.phyCursor = 0 ∧ s.phyTail = false ∧
      s.udreIe = true ∧ s.uartTxq = [] ∧ memReadRange .rxPkt 3 1 s = .ok [0xE5#8]) ∧
    (u.running ∧ u.phyState = sendState .sdn ∧ u.udreIe = true ∧ u.script = sendScript 1 ++ [0x02#8]) :=
  ⟨⟨by decide, rfl, rfl, rfl, rfl, rfl, rfl, rfl⟩, by decide⟩

theorem test_witness_ReplyIsReceivedWhole :
    let bs := [0xDC#8, 0x02#8, 0x01#8]
    let s : State := { testReceiving [] 0 with script := replyScript bs }
    s.running ∧ s.phyState = .receivingSdr ∧ s.rxEn = true ∧ s.phyCursor = 0 ∧ s.phySize = 0 ∧ bs ≠ [] ∧
      telegramSize bs = bs.length ∧ s.script = replyScript bs ++ [] := by decide

theorem test_witness_PollingDrainsPacket :
    let bs := [0x06#8, 0x00#8, 0xF9#8]
    let s : State := { testQueued 0 with script := spiScript (List.replicate 3 0x00#8) }
    s.running ∧ s.rxCursor = 0 ∧ bs ≠ [] ∧ s.txCursor = 0 ∧ s.txLen = bs.length ∧
      memReadRange .txPkt 0 bs.length s = .ok bs := ⟨by decide, rfl, by decide, rfl, rfl, rfl⟩

end Sys2Proof.Machine
end

section
/-! The step of a running machine, from the bytes of its script to the answer of the event's handler (R9, R94). -/

namespace Sys2Proof.Machine

@[simp] theorem recordFault_next (s t : State) : recordFault s (.next t) = .next t := rfl
@[simp] theorem recordFault_fault (s : State) (r : Fault) : recordFault s (.fault r) = .next (setFault r s) := rfl
@[simp] theorem recordFault_refused (s : State) (r : Refusal) : recordFault s (.refused r) = .refused r := rfl

/-- A script that decodes to an event is not empty, so that event is fetched and its bytes are consumed. -/
theorem fetchEvent_of_decode {s : State} {i : Instr} {rest : List Byte}
    (hd : decode .event s.script = .ok (i, rest)) : fetchEvent s = .ok (some (i, setScript rest s)) := by
  unfold fetchEvent
  cases hs : s.script with
  | nil => rw [hs] at hd; cases hd
  | cons c cs => rw [hs] at hd; simp only [hd]

/-- A running machine runs the event it fetches, and records the fault of its handler. -/
theorem step_of_fetchEvent {s u : State} {i : Instr} (hr : s.running) (hf : fetchEvent s = .ok (some (i, u))) :
    step s = recordFault u (exec i u) := by
  obtain ⟨hfault, hbooted⟩ := hr
  simp only [step, hfault, hbooted, hf, if_true]

/-- A running machine whose coming bytes decode to an event runs it with its bytes consumed. -/
theorem step_of_decode {s : State} {i : Instr} {rest : List Byte} (hr : s.running)
    (hd : decode .event s.script = .ok (i, rest)) :
    step s = recordFault (setScript rest s) (exec i (setScript rest s)) :=
  step_of_fetchEvent hr (fetchEvent_of_decode hd)

/-- Settles O5: the step is `recordFault` of the decoded event's answer, taken apart by the three outcomes. -/
theorem stepRunsDecodedEvent : Obligations.StepRunsDecodedEvent := by
  intro s i rest hr hd
  have hstep : step s = recordFault { s with script := rest } (exec i { s with script := rest }) := step_of_decode hr hd
  refine ⟨fun t he => ?next, fun r he => ?fault, fun r he => ?refused⟩
  case next => rw [hstep, he, recordFault_next]
  case fault => rw [hstep, he, recordFault_fault, setFault]
  case refused => rw [hstep, he, recordFault_refused]

end Sys2Proof.Machine
end

section
/-! A recorded fault stops the step and every event (R45). -/

namespace Sys2Proof.Machine

/-- With a fault recorded there is no step. -/
theorem step_of_fault {s : State} {r : Fault} (hf : s.fault = some r) : step s = .fault r := by
  simp only [step, hf]

/-- With a fault recorded no event is taken, admitted or not. -/
theorem takeInterrupt_of_fault {a : State → Bool} {h : State → Res} {s : State} {r : Fault}
    (hf : s.fault = some r) : takeInterrupt a h s = .fault r := by
  simp only [takeInterrupt, hf]

/-- Settles O7: the step and `takeInterrupt`, which each of the five events is, look at the recorded fault first. -/
theorem faultedStateTakesNoStep : Obligations.FaultedStateTakesNoStep := by
  intro s r hf
  have event : ∀ a h, takeInterrupt a h s = .fault r := fun _ _ => takeInterrupt_of_fault hf
  exact ⟨step_of_fault hf, fun _ => event _ _, event _ _, event _ _, fun _ => event _ _, event _ _⟩

end Sys2Proof.Machine
end

section
/-! What an answer ensures of the next state, and how sequencing, reads and interrupts pass it on. -/

namespace Sys2Proof.Machine

/-- The next state that `o` answers, if it answers one, meets `P`. -/
def Ensures (o : Res) (P : State → Prop) : Prop := ∀ t, o = .next t → P t

@[simp] theorem ensures_next {t : State} {P : State → Prop} : Ensures (.next t) P ↔ P t := by
  simp [Ensures]

@[simp] theorem ensures_fault (r : Fault) (P : State → Prop) : Ensures (.fault r) P := by
  simp [Ensures]

theorem ensures_withValue {α : Type} {e : Except Fault α} {k : α → Res} {P : State → Prop}
    (hk : ∀ v, e = .ok v → Ensures (k v) P) : Ensures (withValue e k) P := by
  intro t ht
  obtain ⟨v, hv, hkv⟩ := withValue_eq_next.1 ht
  exact hk v hv t hkv

theorem ensures_andThen {o : Res} {k : State → Res} {Q P : State → Prop} (ho : Ensures o Q)
    (hk : ∀ u, Q u → Ensures (k u) P) : Ensures (andThen o k) P := by
  intro t ht
  obtain ⟨u, hu, hku⟩ := andThen_eq_next.1 ht
  exact hk u (ho u hu) t hku

/-- An event ensures what its handler does where the event is admitted. -/
theorem ensures_takeInterrupt {a : State → Bool} {h : State → Res} {s : State} {P : State → Prop}
    (hh : a s = true → Ensures (h s) P) : Ensures (takeInterrupt a h s) P := by
  intro t ht
  obtain ⟨-, ha, hn⟩ := takeInterrupt_eq_next.1 ht
  exact hh ha t hn

end Sys2Proof.Machine
end

section
/-! The invariant in two parts: the receive assembler's, and everything else. While a whole packet is handled its cursor
stands at its length (R147), so only the second part holds there. -/

namespace Sys2Proof.Machine

/-- The cells written after a write: the new one and those before. -/
theorem Memory.isSome_read_write (m : Memory) (i j : Nat) (v : Byte) :
    ((m.write i v).read j).isSome = true ↔ j = i ∨ (m.read j).isSome = true := by
  rw [Memory.read_write]
  split
  · next hj => simp [hj]
  · next hj => simp [hj]

/-- The assembler's part of the invariant: its cursor and length, and the bytes received so far. -/
def State.AssemblerInv (s : State) : Prop :=
  s.assemblerOk ∧ ∀ i, i < s.rxCursor → (s.rxPkt.read i).isSome = true

/-- The first `m` bytes of the reply being received stand in `tx_pkt[3..]`, and no reply is longer (R6). -/
def State.ReplyHeld (s : State) (m : Nat) : Prop :=
  m ≤ 255 ∧ ∀ i, i < m → (s.txPkt.read (3 + i)).isSome = true

/-- The invariant but for the assembler's part. -/
structure State.LinkInv (s : State) : Prop where
  rxEn : s.rxEnOk
  udre : s.udreOk
  tail : s.tailOk
  blocked : s.blockedOk
  refs : s.refsOk
  signal : s.signalOk
  drain : s.drainOk
  cursor : s.cursorOk
  txq : s.txqOk
  buffers : s.buffersOk
  queued : ∀ i, i < s.txLen → (s.txPkt.read i).isSome = true
  received : s.phyState = .receivingSdr → ∀ i, i < s.phyCursor → (s.txPkt.read (3 + i)).isSome = true

/-- The invariant is its two parts. -/
theorem State.inv_iff {s : State} : s.Inv ↔ s.LinkInv ∧ s.AssemblerInv := by
  constructor
  · intro h
    obtain ⟨hpacket, hqueued, hreceived⟩ := h.written
    exact ⟨{ h with queued := hqueued, received := hreceived }, h.assembler, hpacket⟩
  · rintro ⟨h, hassembler, hpacket⟩
    exact { h with assembler := hassembler, written := ⟨hpacket, h.queued, h.received⟩ }

theorem State.Inv.link {s : State} (h : s.Inv) : s.LinkInv := (State.inv_iff.1 h).1

theorem State.Inv.assemblerInv {s : State} (h : s.Inv) : s.AssemblerInv := (State.inv_iff.1 h).2

/-- What leaves the assembler's three fields alone keeps the invariant where it keeps its other part. -/
theorem State.Inv.of_link {s t : State} (h : s.Inv) (ht : t.LinkInv) (hpkt : t.rxPkt = s.rxPkt)
    (hcur : t.rxCursor = s.rxCursor) (hexp : t.rxExpected = s.rxExpected) : t.Inv := by
  refine State.inv_iff.2 ⟨ht, ?_⟩
  unfold State.AssemblerInv State.assemblerOk
  rw [hpkt, hcur, hexp]
  exact h.assemblerInv

/-- The assembler starting anew (R147, R174) needs nothing of the packet before. -/
theorem assemblerInv_of_zero {s : State} (hcur : s.rxCursor = 0) (hexp : s.rxExpected = 0) : s.AssemblerInv :=
  ⟨.inl ⟨hexp, by rw [hcur]; decide⟩, fun i hi => absurd hi (by omega)⟩

/-- Outside a send the link is not blocked (R47 item 4). -/
theorem State.LinkInv.not_blocked {s : State} (h : s.LinkInv) (hs : s.phyState.sending = false) :
    s.blocked = false := by
  simpa [State.blockedOk, hs] using h.blocked

/-- At the tail of a send the data-register-empty source is off (R47 item 2). -/
theorem State.LinkInv.udreIe_of_tail {s : State} (h : s.LinkInv) (ht : s.phyTail = true) : s.udreIe = false := by
  simpa [State.udreOk, ht] using h.udre

/-- Outside a send the data-register-empty source is off (R47 item 2). -/
theorem State.LinkInv.udreIe_of_not_sending {s : State} (h : s.LinkInv) (hs : s.phyState.sending = false) :
    s.udreIe = false := by
  simpa [State.udreOk, hs] using h.udre

/-- Outside a send the tail flag is off (R47 item 3). -/
theorem State.LinkInv.phyTail_of_not_sending {s : State} (h : s.LinkInv) (hs : s.phyState.sending = false) :
    s.phyTail = false := by
  simpa [State.tailOk, hs] using h.tail

/-- Before the last byte of a telegram the tail flag is off (R47 item 3). -/
theorem State.LinkInv.phyTail_of_lt {s : State} (h : s.LinkInv) (hc : s.phyCursor < s.phySize) :
    s.phyTail = false := by
  simpa [State.tailOk, hc.ne] using h.tail

/-- Writing the value `blocked` has changes nothing. -/
theorem setBlocked_of_eq {s : State} {b : Bool} (h : s.blocked = b) : setBlocked b s = s := by
  subst h; rfl

/-- Settles O55: every buffer is empty, every cursor 0 and every flag false. -/
theorem powerOnMeetsInvariants : Obligations.PowerOnMeetsInvariants := by
  refine State.inv_iff.2 ⟨?link, assemblerInv_of_zero rfl rfl⟩
  case link =>
    exact {
      rxEn := by decide
      udre := by decide
      tail := by decide
      blocked := by decide
      refs := by decide
      signal := by decide
      drain := by decide
      cursor := by decide
      txq := Nat.zero_le _
      buffers := reset_buffers_wf
      queued := fun i hi => absurd hi (Nat.not_lt_zero i)
      received := by decide }

end Sys2Proof.Machine
end

section
/-! Each state update of the handlers keeps the link's part of the invariant (R47). -/

namespace Sys2Proof.Machine

variable {s : State}

/-! ## HostLink -/

/-- A cell other than the header's is not touched by a queued reply (R170). -/
theorem withReply_read_payload (cmd size cs : Byte) (len : Nat) {i : Nat} (hi : 3 ≤ i) :
    (s.withReply cmd size cs len).txPkt.read i = s.txPkt.read i := by
  rw [withReply_read, if_neg (by omega), if_neg (by omega), if_neg (by omega)]

/-- A queued reply has its three header cells written (R170). -/
theorem withReply_read_header (cmd size cs : Byte) (len : Nat) {i : Nat} (hi : i < 3) :
    ((s.withReply cmd size cs len).txPkt.read i).isSome = true := by
  rw [withReply_read]
  obtain rfl | rfl | rfl : i = 0 ∨ i = 1 ∨ i = 2 := by omega
  all_goals rfl

/-- A reply is queued over payload cells that were written (R170). -/
theorem linkInv_withReply (h : s.LinkInv) (cmd size cs : Byte) {len : Nat} (hlen : 3 ≤ len) (hmax : len ≤ pktMax)
    (hp : ∀ i, 3 ≤ i → i < len → (s.txPkt.read i).isSome = true) : (s.withReply cmd size cs len).LinkInv := by
  obtain ⟨hsize, hcur, hsend, hrecv⟩ := h.cursor
  obtain ⟨hrx, htx⟩ := h.buffers
  refine { h with signal := ?signal, drain := ⟨Nat.zero_le _, hmax⟩, cursor := ⟨hsize, hcur, hsend, ?cursor⟩,
                  buffers := ⟨hrx, ?buffers⟩, queued := ?queued, received := ?received }
  case signal => exact (decide_eq_true (show 0 < len by omega)).symm
  case cursor => rw [withReply_read_payload cmd size cs len (Nat.le_refl 3)]; exact hrecv
  case buffers =>
    exact Memory.write_wf cs (Memory.write_wf size (Memory.write_wf cmd htx (by decide)) (by decide)) (by decide)
  case queued =>
    intro i hi
    by_cases h3 : 3 ≤ i
    · rw [withReply_read_payload cmd size cs len h3]
      exact hp i h3 hi
    · exact withReply_read_header cmd size cs len (Nat.lt_of_not_le h3)
  case received =>
    intro hr i hi
    rw [withReply_read_payload cmd size cs len (by omega)]
    exact h.received hr i hi

theorem linkInv_withAck (h : s.LinkInv) : s.withAck.LinkInv :=
  linkInv_withReply h _ _ _ (Nat.le_refl 3) (by decide) fun i h3 hi => absurd hi (by omega)

theorem linkInv_withNack (h : s.LinkInv) : s.withNack.LinkInv :=
  linkInv_withReply h _ _ _ (Nat.le_refl 3) (by decide) fun i h3 hi => absurd hi (by omega)

/-- One byte drained: the line drops exactly with the last (R141, R47 item 6). -/
theorem linkInv_markDrained (h : s.LinkInv) (hc : s.txCursor < s.txLen) : (markDrained s).LinkInv := by
  obtain ⟨-, hmax⟩ := h.drain
  refine { h with signal := ?_, drain := ⟨hc, hmax⟩ }
  have hs : s.signal = true := by simpa [State.signalOk, hc] using h.signal
  simp only [State.signalOk, markDrained_signal, markDrained_txCursor, markDrained_txLen, hs]
  split
  · next hl => exact (decide_eq_false (by omega)).symm
  · next hl => exact (decide_eq_true (by omega)).symm

/-- The HostLink reset of an idle PhyLink, whatever `blocked` was (R174). -/
theorem linkInv_hostlinkReset (h : (setBlocked false s).LinkInv) (hi : s.phyState = .idle) :
    (hostlinkReset s).LinkInv := by
  obtain ⟨hsize, hcur, hsend, -⟩ := h.cursor
  exact {
    h with
    signal := rfl
    drain := ⟨Nat.le_refl 0, Nat.zero_le _⟩
    cursor := ⟨hsize, hcur, hsend, fun hr => by simp [hi] at hr⟩
    buffers := ⟨Memory.nil_wf, Memory.nil_wf⟩
    queued := fun i hlt => absurd hlt (Nat.not_lt_zero i)
    received := fun hr => by simp [hi] at hr }

/-! ## PhyLink -/

/-- PhyLink's reset, with the link unblocked (R112). -/
theorem linkInv_phyReset (h : s.LinkInv) : (setBlocked false (phyReset s)).LinkInv := by
  obtain ⟨hsize, hcur, -, -⟩ := h.cursor
  exact {
    h with
    rxEn := by simp [State.rxEnOk]
    udre := by simp [State.udreOk]
    tail := by simp [State.tailOk]
    blocked := by simp [State.blockedOk, PhyState.sending]
    refs := by simp [State.refsOk]
    cursor := ⟨hsize, hcur, by simp [PhyState.sending], by simp⟩
    received := by simp }

/-- An accepted request, with the link blocked (R110, R111, R164, R166). -/
theorem linkInv_installTransfer (h : s.LinkInv) (k : SendKind) {n : Nat} (hn : n ≤ 255) :
    (setBlocked true (installTransfer k n s)).LinkInv := by
  cases k <;>
  exact {
    h with
    rxEn := by simp [State.rxEnOk, sendState]
    udre := by simp [State.udreOk, sendState, PhyState.sending]
    tail := by simp [State.tailOk]
    blocked := by simp [State.blockedOk, sendState, PhyState.sending]
    refs := by simp [State.refsOk, sendState, replyRef]
    cursor := ⟨hn, Nat.zero_le _, fun _ => Nat.zero_le _, by simp [sendState]⟩
    received := by simp [sendState] }

/-- The next telegram byte queued: the last one disables the source and sets the tail flag (R114). -/
theorem linkInv_queueTelegramByte (h : s.LinkInv) (v : Byte) (hs : s.phyState.sending = true)
    (hc : s.phyCursor < s.phySize) (hq : s.uartTxq.length < Config.uartTxqCap) :
    (queueTelegramByte v s).LinkInv := by
  obtain ⟨hsize, -, -, -⟩ := h.cursor
  have hr : s.phyState ≠ .receivingSdr := by rintro hp; simp [hp, PhyState.sending] at hs
  refine { h with
    udre := ?udre
    tail := ?tail
    cursor := ⟨hsize, Nat.le_trans hc hsize, fun _ => hc, fun hp => absurd hp hr⟩
    txq := by simpa [State.txqOk] using hq
    received := fun hp => absurd hp hr }
  case udre =>
    by_cases hl : s.phyCursor + 1 = s.phySize
    · simp [State.udreOk, hl]
    · simpa [State.udreOk, hl] using h.udre
  case tail =>
    by_cases hl : s.phyCursor + 1 = s.phySize
    · simp [State.tailOk, hl, hs]
    · simp [State.tailOk, hl, h.phyTail_of_lt hc]

theorem linkInv_disableUdre (h : s.LinkInv) : (disableUdre s).LinkInv :=
  { h with udre := by simp [State.udreOk] }

/-- The end of an SDR send, with the link unblocked (R115, R192). -/
theorem linkInv_startReceive (h : s.LinkInv) (ht : s.phyTail = true) (hp : s.phyState = .sendingSdr) :
    (setBlocked false (startReceive s)).LinkInv := by
  have hrefs : s.phyTxRef ≠ .noRef ∧ s.phyRxRef ≠ .noRef := by simpa [State.refsOk, hp] using h.refs
  exact {
    h with
    rxEn := by simp [State.rxEnOk]
    udre := by simp [State.udreOk, h.udreIe_of_tail ht]
    tail := by simp [State.tailOk]
    blocked := by simp [State.blockedOk, PhyState.sending]
    refs := by simpa [State.refsOk] using hrefs
    cursor := ⟨Nat.zero_le _, Nat.zero_le _, fun _ => Nat.le_refl 0, fun _ => .inl (by simp)⟩
    received := by simp }

/-- The end of an SDN send, with the link unblocked (R115, R191). -/
theorem linkInv_endSdn (h : s.LinkInv) (ht : s.phyTail = true) (hp : s.phyState = .sendingSdn) :
    (setBlocked false (endSdn s)).LinkInv := by
  obtain ⟨hsize, hcur, -, -⟩ := h.cursor
  exact {
    h with
    rxEn := by simpa [State.rxEnOk, hp] using h.rxEn
    udre := by simp [State.udreOk, h.udreIe_of_tail ht]
    tail := by simp [State.tailOk]
    blocked := by simp [State.blockedOk, PhyState.sending]
    refs := by simpa [State.refsOk, hp] using h.refs.2
    cursor := ⟨hsize, hcur, by simp [PhyState.sending], by simp⟩
    received := by simp }

/-- The oldest queued byte leaves the UART (R118). -/
theorem linkInv_putOnWire (h : s.LinkInv) {v : Byte} {q : List Byte} (hq : s.uartTxq = v :: q) :
    (putOnWire v q s).LinkInv := by
  have hcap : (v :: q).length ≤ Config.uartTxqCap := hq ▸ h.txq
  exact { h with txq := Nat.le_of_succ_le hcap }

/-! ## PhyLink's receiver -/

/-- A reply byte written before the cursor counts it: byte 0 is behind it by then (R116). -/
theorem linkInv_storeReplyByte (h : s.LinkInv) (b : Byte) (hi : 3 + s.phyCursor < pktMax) :
    (s.setCell .txPkt (3 + s.phyCursor) b).LinkInv := by
  obtain ⟨hsize, hcur, hsend, hrecv⟩ := h.cursor
  obtain ⟨hrx, htx⟩ := h.buffers
  have keeps : ∀ j, (s.txPkt.read j).isSome = true → ((s.txPkt.write (3 + s.phyCursor) b).read j).isSome = true :=
    fun j hj => (Memory.isSome_read_write _ _ j b).2 (.inr hj)
  refine { h with
    cursor := ⟨hsize, hcur, hsend, fun hp => (hrecv hp).imp_left fun ⟨h0, h3, hsd⟩ => ⟨h0, h3, fun hpos => ?_⟩⟩
    buffers := ⟨hrx, Memory.write_wf b htx hi⟩
    queued := fun i hlt => keeps i (h.queued i hlt)
    received := fun hp i hlt => keeps (3 + i) (h.received hp i hlt) }
  have hpos : 0 < s.phyCursor := hpos
  rw [setCell_txPkt_txPkt, Memory.read_write_other _ _ (by omega)]
  exact hsd hpos

/-- The counted byte is one more byte of the reply held. -/
theorem replyHeld_storeReplyByte (h : s.LinkInv) (b : Byte) (hp : s.phyState = .receivingSdr) (hc : s.phyCursor < 255) :
    (s.setCell .txPkt (3 + s.phyCursor) b).ReplyHeld (s.phyCursor + 1) := by
  refine ⟨hc, fun i hi => (Memory.isSome_read_write _ _ (3 + i) b).2 ?_⟩
  rcases Nat.lt_succ_iff_lt_or_eq.1 hi with hlt | rfl
  · exact .inr (h.received hp i hlt)
  · exact .inl rfl

/-- A receive goes on with the bytes counted and the size resolved, or with an unresolved 0x68 start (R116). -/
theorem linkInv_receiving (h : s.LinkInv) (hp : s.phyState = .receivingSdr) {m n : Nat} (hm : s.ReplyHeld m)
    (hn : n ≤ 255) (hc : (n = 0 ∧ m < 3 ∧ s.txPkt.read 3 = some 0x68#8) ∨ m < n) :
    (setPhySize n (setPhyCursor m s)).LinkInv := by
  obtain ⟨hmax, hheld⟩ := hm
  have hs : s.phyState.sending = false := by simp [hp, PhyState.sending]
  exact {
    h with
    tail := by simp [State.tailOk, h.phyTail_of_not_sending hs]
    cursor := ⟨hn, hmax, by simp [hs], fun _ => hc.imp_left fun ⟨h0, h3, hsd⟩ => ⟨h0, h3, fun _ => hsd⟩⟩
    received := fun _ => hheld }

/-- The end of a receive, wherever its cursor and size stand (R117). -/
theorem linkInv_endReceive (h : s.LinkInv) (hp : s.phyState = .receivingSdr) {m n : Nat} (hm : m ≤ 255)
    (hn : n ≤ 255) : (endReceive (setPhySize n (setPhyCursor m s))).LinkInv := by
  have hs : s.phyState.sending = false := by simp [hp, PhyState.sending]
  exact {
    h with
    rxEn := by simp [State.rxEnOk]
    udre := by simp [State.udreOk, h.udreIe_of_not_sending hs]
    tail := by simp [State.tailOk, h.phyTail_of_not_sending hs]
    blocked := by simp [State.blockedOk, PhyState.sending, h.not_blocked hs]
    refs := by simp [State.refsOk]
    cursor := ⟨hn, hm, by simp [PhyState.sending], by simp⟩
    received := by simp }

end Sys2Proof.Machine
end

section
/-! The UART events keep the invariant (R114 to R118). -/

namespace Sys2Proof.Machine

variable {s : State}

theorem ensures_udreHandler (h : s.Inv) (ha : admitsUdre s = true) : Ensures (udreHandler s) State.Inv := by
  have hq : s.uartTxq.length < Config.uartTxqCap := by
    simp only [admitsUdre, Bool.and_eq_true, decide_eq_true_eq] at ha
    exact ha.2
  unfold udreHandler
  split
  · next hsend =>
    refine ensures_withValue fun v _ => ensures_next.2 ?_
    exact h.of_link (linkInv_queueTelegramByte h.link v hsend.1 hsend.2 hq) rfl rfl rfl
  · exact ensures_next.2 (h.of_link (linkInv_disableUdre h.link) rfl rfl rfl)

theorem ensures_txcHandler (h : s.Inv) : Ensures (txcHandler s) State.Inv := by
  unfold txcHandler
  split
  · exact ensures_next.2 h
  · next htail =>
    have ht : s.phyTail = true := by simpa using htail
    obtain ⟨hsend, -⟩ := h.tail ht
    split
    · next hp => exact ensures_next.2 (h.of_link (linkInv_startReceive h.link ht hp) rfl rfl rfl)
    · next hp => exact ensures_next.2 (h.of_link (linkInv_withAck (linkInv_endSdn h.link ht hp)) rfl rfl rfl)
    · next hp => simp [hp, PhyState.sending] at hsend
    · next hp => simp [hp, PhyState.sending] at hsend

theorem ensures_shiftOne (h : s.Inv) : Ensures (shiftOne s) State.Inv := by
  unfold shiftOne
  split
  · exact ensures_next.2 h
  · next v q hq => exact ensures_next.2 (h.of_link (linkInv_putOnWire h.link hq) rfl rfl rfl)

/-! ## The receiver: `s` holds the reply's bytes, the cursor is about to count them -/

/-- A whole reply is queued from the bytes held (R117, R193). -/
theorem ensures_finish_complete (h : s.Inv) (hp : s.phyState = .receivingSdr) {m n : Nat} (hm : s.ReplyHeld m)
    (hn : n ≤ 255) : Ensures (execFinish .complete (setPhySize n (setPhyCursor m s))) State.Inv := by
  obtain ⟨hmax, hheld⟩ := hm
  have hend := linkInv_endReceive h.link hp hmax hn
  rw [execFinish_complete]
  rcases execQueueReply_cases (.srdReply m) (endReceive (setPhySize n (setPhyCursor m s))) with
    ⟨cmd, size, cs, len, hq, -, hlen, -⟩ | ⟨_, _, r, -, hq, -⟩
  · obtain rfl : len = 3 + m := hlen m rfl
    refine hq ▸ ensures_next.2 (h.of_link (linkInv_withReply hend cmd size cs ?_ ?_ fun i h3 hi => ?_) rfl rfl rfl)
    · omega
    · unfold pktMax; omega
    · obtain ⟨j, rfl⟩ := Nat.exists_eq_add_of_le h3
      exact hheld j (by omega)
  · exact hq ▸ ensures_fault r _

/-- An aborted receive queues NACK (R117, R194). -/
theorem ensures_finish_error (h : s.Inv) (hp : s.phyState = .receivingSdr) {m n : Nat} (hm : s.ReplyHeld m)
    (hn : n ≤ 255) : Ensures (execFinish .error (setPhySize n (setPhyCursor m s))) State.Inv := by
  have hend := linkInv_endReceive h.link hp hm.1 hn
  rw [execFinish_error, setBlocked_of_eq (hend.not_blocked rfl)]
  exact ensures_next.2 (h.of_link (linkInv_withNack hend) rfl rfl rfl)

/-- The resolution of a size the bytes held do not exceed (R116). -/
theorem ensures_resolveReply (h : s.Inv) (hp : s.phyState = .receivingSdr) {m n : Nat} (hm : s.ReplyHeld m)
    (hn : n ≤ 255) (hmn : n ≠ 0 → m ≤ n) : Ensures (resolveReply n (setPhyCursor m s)) State.Inv := by
  rcases resolveReply_cases n (setPhyCursor m s) with ⟨-, he⟩ | ⟨-, -, he⟩ | ⟨h0, hne, he⟩
  · exact he ▸ ensures_finish_error h hp hm hn
  · exact he ▸ ensures_finish_complete h hp hm hn
  · have hlt : m < n := Nat.lt_of_le_of_ne (hmn h0) hne
    exact he ▸ ensures_next.2 (h.of_link (linkInv_receiving h.link hp hm hn (.inr hlt)) rfl rfl rfl)

/-- The completion test, with the size resolved or an unresolved 0x68 start (R116). -/
theorem ensures_completeIfWhole (h : s.Inv) (hp : s.phyState = .receivingSdr) {m : Nat} (hm : s.ReplyHeld m)
    (hc : (s.phySize = 0 ∧ m < 3 ∧ s.txPkt.read 3 = some 0x68#8) ∨ m ≤ s.phySize) (hpos : 0 < m) :
    Ensures (completeIfWhole (setPhyCursor m s)) State.Inv := by
  have hsize : s.phySize ≤ 255 := h.cursor.1
  rcases completeIfWhole_cases (setPhyCursor m s) with ⟨-, -, he⟩ | ⟨hne, he⟩
  · exact he ▸ ensures_finish_complete h hp hm hsize
  · have hne : s.phySize = 0 ∨ m ≠ s.phySize := hne
    have hc' : (s.phySize = 0 ∧ m < 3 ∧ s.txPkt.read 3 = some 0x68#8) ∨ m < s.phySize :=
      hc.imp_right fun hle => by omega
    exact he ▸ ensures_next.2 (h.of_link (linkInv_receiving h.link hp hm hsize hc') rfl rfl rfl)

/-- A telegram with start delimiter 0x68 has at least the three bytes that give its size (R90). -/
theorem three_le_telegramSize_sd2 {t : List Byte} (h : telegramSize (0x68#8 :: t) ≠ 0) :
    3 ≤ telegramSize (0x68#8 :: t) := by
  match t with
  | [] => exact absurd rfl h
  | [_] => exact absurd rfl h
  | le :: ler :: rest =>
    have he : telegramSize (0x68#8 :: le :: ler :: rest) =
        if le ≠ ler ∨ le.toNat < 4 ∨ 249 < le.toNat then 0 else le.toNat + 6 := rfl
    rw [he] at h ⊢
    split_ifs at h ⊢
    · exact absurd rfl h
    · omega

/-- The first byte of a range read is the read of its first cell. -/
theorem memReadRange_head {b : Buf} {i n : Nat} {v : Byte} {t : List Byte} (hv : memRead b i s = .ok v)
    (ht : memReadRange b i (n + 1) s = .ok t) : ∃ t', t = v :: t' := by
  simp only [memReadRange, hv] at ht
  split at ht
  · cases ht
  · next vs _ => exact ⟨vs, by cases ht; rfl⟩

/-- The size resolution of a received byte, stored in `s` and about to be counted (R116). `0x68` at byte 0 is what an
unresolved reply starts with. -/
theorem ensures_replyByte (h : s.Inv) (hp : s.phyState = .receivingSdr) {b : Byte}
    (hm : s.ReplyHeld (s.phyCursor + 1)) (hb : s.txPkt.read (3 + s.phyCursor) = some b) :
    Ensures (replyByte b (setPhyCursor (s.phyCursor + 1) s)) State.Inv := by
  obtain ⟨hsize, -, -, hrecv⟩ := h.cursor
  rcases replyByte_cases b (setPhyCursor (s.phyCursor + 1) s) with
    ⟨h1, -, he⟩ | ⟨t, h3, hsd, ht, he⟩ | ⟨_, r, -, -, -, -, he⟩ | ⟨h1, h3, he⟩
  · have h1 : s.phyCursor + 1 = 1 := h1
    rw [he, resolveTelegram_reply (s := setPhyCursor (s.phyCursor + 1) s) hp]
    exact ensures_resolveReply h hp hm (telegramSize_le _) fun h0 => by omega
  · have h3 : s.phyCursor + 1 = 3 := h3
    obtain ⟨t', rfl⟩ := memReadRange_head hsd ht
    rw [he, resolveTelegram_reply (s := setPhyCursor (s.phyCursor + 1) s) hp]
    exact ensures_resolveReply h hp hm (telegramSize_le _) fun h0 => h3 ▸ three_le_telegramSize_sd2 h0
  · exact he ▸ ensures_fault r _
  · rw [he]
    refine ensures_completeIfWhole h hp hm ?_ (Nat.succ_pos _)
    rcases hrecv hp with ⟨h0, hlt, hsd⟩ | hlt
    · refine .inl ?_
      rcases Nat.eq_zero_or_pos s.phyCursor with hz | hpos
      · have hb68 : b = 0x68#8 := h1 (congrArg (· + 1) hz)
        exact ⟨h0, by omega, by rw [hz, hb68] at hb; exact hb⟩
      · have h3 : s.phyCursor + 1 ≠ 3 := fun hc => h3 hc (memRead_ok_iff.2 ⟨by decide, hsd hpos⟩)
        exact ⟨h0, by omega, hsd hpos⟩
    · exact .inr hlt

/-- A received byte inside `ReceivingSdr`, and one outside (R116). -/
theorem ensures_rxcHandler (h : s.Inv) (b : Byte) : Ensures (rxcHandler b s) State.Inv := by
  by_cases hp : s.phyState = .receivingSdr
  · obtain ⟨hsize, -, -, hrecv⟩ := h.cursor
    have hc : s.phyCursor < 255 := by
      rcases hrecv hp with ⟨-, hlt, -⟩ | hlt <;> omega
    have hi : 3 + s.phyCursor < pktMax := by unfold pktMax; omega
    have hstored : (s.setCell .txPkt (3 + s.phyCursor) b).Inv :=
      h.of_link (linkInv_storeReplyByte h.link b hi) rfl rfl rfl
    rw [rxcHandler_run hp hi]
    exact ensures_replyByte hstored hp (replyHeld_storeReplyByte h.link b hp hc) (Memory.read_write_same _ _ b)
  · unfold rxcHandler
    rw [if_pos hp]
    exact ensures_next.2 h

end Sys2Proof.Machine
end

section
/-! The host's commands and the SPI exchange keep the invariant (R140 to R148, R160 to R169). -/

namespace Sys2Proof.Machine

variable {s : State}

/-! ## Commands: the link's part, for a packet handled while the link is not blocked -/

theorem execReset_eq (s : State) : execReset s = .next (hostlinkReset (phyReset s)).withAck := rfl

/-- Both resets set up an idle link, whatever stood before (R112, R174). -/
theorem linkInv_resets (h : s.LinkInv) : (hostlinkReset (phyReset s)).LinkInv :=
  linkInv_hostlinkReset (linkInv_phyReset h) rfl

/-- The size a request reads never exceeds the longest telegram (R90). -/
theorem outgoingSize_le {n : Nat} (h : outgoingSize s = .ok n) : n ≤ 255 := by
  unfold outgoingSize at h
  split at h
  · cases h
  · split at h
    · cases h
    · next t _ => cases h; exact telegramSize_le t

theorem ensures_startRequest (h : s.LinkInv) (k : SendKind) : Ensures (startRequest k s) State.LinkInv := by
  have hnack : Ensures (execQueueReply .nack s) State.LinkInv := ensures_next.2 (linkInv_withNack h)
  unfold startRequest
  rcases request_cases k s with ⟨-, he⟩ | ⟨-, -, he⟩ | ⟨n, -, -, hn, he⟩ | ⟨r, -, -, he⟩
  · exact he ▸ hnack
  · exact he ▸ hnack
  · exact he ▸ ensures_next.2 (linkInv_installTransfer h k (outgoingSize_le hn))
  · exact he ▸ ensures_fault r _

theorem ensures_acceptConfig (h : s.LinkInv) : Ensures (acceptConfig s) State.LinkInv := by
  refine ensures_withValue fun ms _ => ?_
  have htimeout : (setTimeout ms s).LinkInv := { h with }
  exact ensures_next.2 (linkInv_withAck htimeout)

theorem ensures_setConfig (h : s.LinkInv) (hb : s.blocked = false) : Ensures (execSetConfig s) State.LinkInv := by
  have hnack : Ensures (execQueueReply .nack s) State.LinkInv := ensures_next.2 (linkInv_withNack h)
  unfold execSetConfig
  refine ensures_withValue fun size _ => ?_
  split
  · exact hnack
  · refine ensures_withValue fun b _ => ?_
    split
    · exact ensures_acceptConfig h
    · split
      · exact hnack
      · next be _ =>
        have hreset : (phyReset s).LinkInv := setBlocked_of_eq (s := phyReset s) hb ▸ linkInv_phyReset h
        have hreinit : (setBaud be (phyReset s)).LinkInv := { hreset with }
        exact ensures_andThen (ensures_next.2 hreinit) fun _ hu => ensures_acceptConfig hu

theorem ensures_dispatch (h : s.LinkInv) (hb : s.blocked = false) (cmd : Byte) :
    Ensures (dispatch cmd s) State.LinkInv :=
  dispatch_of_commands (p := (Ensures · State.LinkInv))
    (nothing := ensures_next.2 h)
    (reset := execReset_eq s ▸ ensures_next.2 (linkInv_withAck (linkInv_resets h)))
    (config := ensures_setConfig h hb)
    (send := ensures_startRequest h)
    (reserved := ensures_next.2 (linkInv_withNack h))
    cmd

theorem ensures_handlePacket (h : s.LinkInv) (hb : s.blocked = false) :
    Ensures (execHandlePacket s) State.LinkInv := by
  unfold execHandlePacket
  refine ensures_withValue fun cmd _ => ?_
  split
  · exact ensures_dispatch h hb cmd
  · refine ensures_withValue fun size _ => ensures_withValue fun cs _ => ensures_withValue fun payload _ => ?_
    split
    · exact ensures_next.2 (linkInv_withNack h)
    · exact ensures_dispatch h hb cmd

/-! ## The assembler -/

/-- A whole packet is handled and the assembler starts anew; a packet still short is left to grow (R147). -/
theorem ensures_packetComplete (h : s.LinkInv) (hb : s.blocked = false)
    (hshort : ¬ (3 ≤ s.rxCursor ∧ s.rxCursor = s.rxExpected) → s.AssemblerInv) :
    Ensures (packetComplete s) State.Inv := by
  rcases packetComplete_cases s with ⟨hn, he⟩ | ⟨-, -, he⟩
  · exact he ▸ ensures_next.2 (State.inv_iff.2 ⟨h, hshort hn⟩)
  · rw [he]
    refine ensures_andThen (ensures_handlePacket h hb) fun t ht => ensures_next.2 ?_
    exact State.inv_iff.2 ⟨{ ht with }, assemblerInv_of_zero rfl rfl⟩

/-- The assembler's cursor stays inside the buffer (R34). -/
theorem State.Inv.rxCursor_lt (h : s.Inv) : s.rxCursor < pktMax := by
  rcases h.assembler with ⟨-, hc⟩ | ⟨-, hlt, hmax, -⟩
  · exact Nat.lt_trans hc (by decide)
  · exact Nat.lt_of_lt_of_le hlt hmax

/-- The state after stage 3 of a received byte: it is stored and counted (R145). -/
abbrev State.afterByte (s : State) (b : Byte) : State := setRxCursor (s.rxCursor + 1) (s.setCell .rxPkt s.rxCursor b)

theorem receive_eq_afterByte (h : s.Inv) {b : Byte} (hb : s.blocked = false) (hnop : s.rxCursor = 0 → b ≠ 0x00#8) :
    receive b s = withValue (headerComplete (s.afterByte b)) packetComplete :=
  receive_stored hb hnop h.rxCursor_lt

theorem linkInv_afterByte (h : s.Inv) (b : Byte) : (s.afterByte b).LinkInv :=
  { h.link with buffers := ⟨Memory.write_wf b h.buffers.1 h.rxCursor_lt, h.buffers.2⟩ }

/-- The bytes received so far, with one more. -/
theorem afterByte_received (h : s.Inv) (b : Byte) :
    ∀ i, i < (s.afterByte b).rxCursor → ((s.afterByte b).rxPkt.read i).isSome = true := by
  obtain ⟨-, hpacket⟩ := h.assemblerInv
  intro i hi
  refine (Memory.isSome_read_write _ _ i b).2 ?_
  rcases Nat.lt_succ_iff_lt_or_eq.1 hi with hlt | rfl
  · exact .inr (hpacket i hlt)
  · exact .inl rfl

/-- A byte of the header before its third, or of the payload before its last. -/
theorem assemblerInv_afterByte (h : s.Inv) (b : Byte) (h3 : s.rxCursor + 1 ≠ 3)
    (hshort : ¬ (3 ≤ s.rxCursor + 1 ∧ s.rxCursor + 1 = s.rxExpected)) : (s.afterByte b).AssemblerInv := by
  refine ⟨?_, afterByte_received h b⟩
  rcases h.assembler with ⟨h0, hc⟩ | ⟨hc, hlt, hmax, hlen⟩
  · have hc : s.rxCursor < 3 := hc
    exact .inl ⟨h0, show s.rxCursor + 1 < 3 by omega⟩
  · have hc : 3 ≤ s.rxCursor := hc
    have hread : (s.rxPkt.write s.rxCursor b).read 1 = s.rxPkt.read 1 := Memory.read_write_other _ _ (by omega)
    exact .inr ⟨Nat.le_succ_of_le hc, show s.rxCursor + 1 < s.rxExpected by omega, hmax, hread ▸ hlen⟩

/-- The header's third byte, where a payload follows (R146). -/
theorem assemblerInv_headerEnd (h : s.Inv) (b : Byte) {size : Byte} (h3 : s.rxCursor + 1 = 3)
    (hsize : (s.afterByte b).rxPkt.read 1 = some size) (hpos : size.toNat ≠ 0) :
    (setRxExpected (3 + size.toNat) (s.afterByte b)).AssemblerInv := by
  refine ⟨.inr ⟨h3.ge, ?_, ?_, ?_⟩, afterByte_received h b⟩
  · show s.rxCursor + 1 < 3 + size.toNat
    omega
  · have hbyte : size.toNat < 256 := size.isLt
    show 3 + size.toNat ≤ 258
    omega
  · exact congrArg (Option.map fun size : Byte => hdrLen + size.toNat) hsize

/-- Stages 4 and 5 of a received byte (R146, R147). -/
theorem ensures_afterByte (h : s.Inv) (hb : s.blocked = false) (b : Byte) :
    Ensures (withValue (headerComplete (s.afterByte b)) packetComplete) State.Inv := by
  have hlink := linkInv_afterByte h b
  rcases headerComplete_cases (s.afterByte b) with ⟨h3, he⟩ | ⟨size, h3, hsize, he⟩ | ⟨r, -, -, he⟩
  · exact he ▸ ensures_packetComplete hlink hb fun hshort => assemblerInv_afterByte h b h3 hshort
  · have h3 : s.rxCursor + 1 = 3 := h3
    obtain ⟨-, hsize⟩ := memRead_ok_iff.1 hsize
    refine he ▸ ensures_packetComplete { hlink with } hb fun hshort =>
      assemblerInv_headerEnd h b h3 hsize fun h0 => hshort ⟨h3.ge, ?_⟩
    show s.rxCursor + 1 = 3 + size.toNat
    omega
  · exact he ▸ ensures_fault r _

theorem ensures_receive (h : s.Inv) (b : Byte) : Ensures (receive b s) State.Inv := by
  by_cases hd : s.blocked = true ∨ (s.rxCursor = 0 ∧ b = 0x00#8)
  · exact receive_dropped hd ▸ ensures_next.2 h
  · rw [not_or, not_and, Bool.not_eq_true] at hd
    obtain ⟨hb, hnop⟩ := hd
    exact receive_eq_afterByte h hb hnop ▸ ensures_afterByte h hb b

/-- The exchange: the byte out is drained, then the byte in is received (R140). -/
theorem ensures_spiHandler (h : s.Inv) (b : Byte) : Ensures (spiHandler b s) State.Inv := by
  have hlog : ∀ {u : State} v, u.Inv → (logHostByte v u).Inv := fun _ hu => { hu with }
  unfold spiHandler
  rcases drainByte_cases s with ⟨-, he⟩ | ⟨v, hc, -, he⟩ | ⟨r, -, -, he⟩
  · exact he ▸ ensures_receive (hlog _ h) b
  · have hdrained : (markDrained s).Inv := h.of_link (linkInv_markDrained h.link hc) rfl rfl rfl
    exact he ▸ ensures_receive (hlog v hdrained) b
  · exact he ▸ ensures_fault r _

end Sys2Proof.Machine
end

section
/-! Every step keeps the invariant (R47). -/

namespace Sys2Proof.Machine

/-- The boot step sets up an idle link, whatever stood before (R231). -/
theorem ensures_boot {s : State} (h : s.Inv) : Ensures (execBoot s) State.Inv := by
  have hreset := linkInv_phyReset h.link
  have hzero : (setBlocked false (setBaud Config.baudInit (setPhyCursor 0 (setPhySize 0 (phyReset s))))).LinkInv :=
    { hreset with
      tail := by simp [State.tailOk]
      cursor := ⟨Nat.zero_le _, Nat.zero_le _, fun _ => Nat.le_refl 0, by simp⟩
      received := by simp }
  have hlink := linkInv_hostlinkReset hzero rfl
  exact ensures_next.2 (State.inv_iff.2 ⟨{ hlink with }, assemblerInv_of_zero rfl rfl⟩)

/-- Each of the five events (R94). -/
theorem ensures_event {s : State} (h : s.Inv) {bs rest : List Byte} {i : Instr}
    (hd : decode .event bs = .ok (i, rest)) : Ensures (exec i s) State.Inv := by
  rcases decode_event_cases hd with ⟨b, rfl, -⟩ | ⟨rfl, -⟩ | ⟨rfl, -⟩ | ⟨b, rfl, -⟩ | ⟨rfl, -⟩
  · exact ensures_takeInterrupt fun _ => ensures_spiHandler h b
  · exact ensures_takeInterrupt fun ha => ensures_udreHandler h ha
  · exact ensures_takeInterrupt fun _ => ensures_txcHandler h
  · exact ensures_takeInterrupt fun _ => ensures_rxcHandler h b
  · exact ensures_takeInterrupt fun _ => ensures_shiftOne h

/-- Settles O56: by what a step can be, the boot step, an idle step, or an event that answers or faults. -/
theorem stepKeepsInvariants : Obligations.StepKeepsInvariants := by
  intro s t h hstep
  obtain ⟨-, ⟨-, hboot⟩ | ⟨-, -, rfl⟩ | ⟨i, rest, -, hd, hevent⟩⟩ := step_cases hstep
  · exact ensures_boot h t hboot
  · exact h
  · have hscript : (setScript rest s).Inv := { h with }
    rcases hevent with hnext | ⟨r, -, rfl⟩
    · exact ensures_event hscript hd t hnext
    · exact { hscript with }

end Sys2Proof.Machine
end

section
/-! Reads of unwritten telegram bytes: by a request, and by the next byte of a send (R61, R110, R111, R114, D21). -/

namespace Sys2Proof.Machine

variable {s : State}

/-- An unwritten cell inside the buffer faults, and the fault names it (R61). -/
theorem memRead_of_unwritten {b : Buf} {i : Nat} (h : (s.buf b).read i = none) (hi : i < pktMax) :
    memRead b i s = .error (.unwrittenRead b i) := by
  simp only [memRead, if_pos hi, h]

/-- In `Idle` a request faults where the size of its telegram does (R110, R111). -/
theorem request_of_outgoingSize_error {r : Fault} (k : SendKind) (hp : s.phyState = .idle)
    (h : outgoingSize s = .error r) : request k s = .error r := by
  simp only [request, hp, h, ne_eq, not_true_eq_false, if_false]

/-- The four instructions that request a transfer: the two host commands and the two entry points (R164, R166, R110,
R111). -/
def IsRequest (i : Instr) : Prop := i = .pbSrdReq ∨ i = .pbSdnReq ∨ i = .requestSdr ∨ i = .requestSdn

/-- Each of the four hands the fault of its request on. -/
theorem exec_of_outgoingSize_error {i : Instr} {r : Fault} (hi : IsRequest i) (hp : s.phyState = .idle)
    (h : outgoingSize s = .error r) : exec i s = .fault r := by
  have faults : ∀ (k : SendKind) (f : EntryResult × State → Res), withValue (request k s) f = .fault r :=
    fun k _ => withValue_eq_fault.2 (.inl (request_of_outgoingSize_error k hp h))
  rcases hi with rfl | rfl | rfl | rfl
  · exact faults .sdr _
  · exact faults .sdn _
  · exact faults .sdr _
  · exact faults .sdn _

/-- A send with bytes left faults on the unwritten byte it would queue next (R114). -/
theorem udreHandler_of_unwritten (hs : s.phyState.sending = true) (hc : s.phyCursor < s.phySize)
    (hmax : s.phyCursor < 255) (h : s.rxPkt.read (3 + s.phyCursor) = none) :
    udreHandler s = .fault (.unwrittenRead .rxPkt (3 + s.phyCursor)) := by
  have hi : 3 + s.phyCursor < pktMax := by unfold pktMax; omega
  unfold udreHandler
  rw [if_pos ⟨hs, hc⟩]
  exact withValue_eq_fault.2 (.inl (memRead_of_unwritten (b := .rxPkt) h hi))

/-- Settles O20: a request faults with the telegram's size, an admitted UDRE with the byte at its cursor. -/
theorem requestOfUnwrittenTelegramFaults : Obligations.RequestOfUnwrittenTelegramFaults := by
  refine ⟨fun s i hp hi => ?request, fun s hr hie hroom hsend hc hmax hread => ?udre⟩
  case request =>
    obtain ⟨first, second, third⟩ := outgoingSize_unwritten (s := s)
    have faults : ∀ {r}, outgoingSize s = .error r → exec i s = .fault r := exec_of_outgoingSize_error hi hp
    exact ⟨fun h3 => faults (first h3), fun h3 h4 => faults (second h3 h4),
      fun le h3 h4 h5 => faults (third le h3 h4 h5)⟩
  case udre =>
    have hadmit : admitsUdre s = true := by simp [admitsUdre, hie, hroom]
    have hsending : s.phyState.sending = true := by rcases hsend with h | h <;> rw [h] <;> rfl
    exact (takeInterrupt_admitted hr hadmit).trans (udreHandler_of_unwritten hsending hc hmax hread)

end Sys2Proof.Machine
end

section
/-! The rows of HOSTCMD: the command byte and its instruction determine each other (R82, R93). -/

namespace Sys2Proof

/-- The bits of a byte below `k`, put under its bits from `k` up, give the byte back. -/
theorem or_extractLsb'_of_and {c p : Byte} {k : Nat} (h : c &&& (BitVec.allOnes 8 <<< k) = p) :
    p ||| (c.extractLsb' 0 k).setWidth 8 = c := by
  subst h
  ext i hi
  by_cases hk : i < k <;> simp [hk, hi, -BitVec.reduceAllOnes]

/-- What the rows of R82 before the last leave over: the bytes with bit 7 set. -/
theorem and_high_of_not_lower : ∀ c : Byte, 8 ≤ c.toNat → c &&& 0xF8#8 ≠ 0x08#8 → c &&& 0xF0#8 ≠ 0x10#8 →
    c &&& 0xE0#8 ≠ 0x20#8 → c &&& 0xC0#8 ≠ 0x40#8 → c &&& 0x80#8 = 0x80#8 := by decide

/-- The bytes below 8 are the eight commands of their own (R82). -/
theorem eq_of_toNat_lt_eight : ∀ c : Byte, c.toNat < 8 → c = 0x00#8 ∨ c = 0x01#8 ∨ c = 0x02#8 ∨ c = 0x03#8 ∨
    c = 0x04#8 ∨ c = 0x05#8 ∨ c = 0x06#8 ∨ c = 0x07#8 := by decide

/-- Every command byte is read as a HOSTCMD row whose encoding is that byte (R82, R93). -/
theorem decodeCommand_spec (c : Byte) :
    (decodeCommand c).wf = true ∧ (decodeCommand c).format = some .hostCmd ∧ encode (decodeCommand c) = some [c] := by
  by_cases hc : c.toNat < 8
  · rcases eq_of_toNat_lt_eight c hc with rfl | rfl | rfl | rfl | rfl | rfl | rfl | rfl
    all_goals exact ⟨rfl, rfl, rfl⟩
  · have hne : ∀ v : Byte, v.toNat < 8 → c ≠ v := by rintro v hv rfl; exact hc hv
    have row : ∀ {p : Byte} {k : Nat}, c &&& (BitVec.allOnes 8 <<< k) = p →
        some [p ||| (c.extractLsb' 0 k).setWidth 8] = some [c] := fun h => by rw [or_extractLsb'_of_and h]
    unfold decodeCommand
    iterate 8 rw [if_neg (hne _ (by decide))]
    split_ifs with h08 h10 h20 h40
    · exact ⟨rfl, rfl, row h08⟩
    · exact ⟨rfl, rfl, row h10⟩
    · exact ⟨rfl, rfl, row h20⟩
    · exact ⟨rfl, rfl, row h40⟩
    · exact ⟨rfl, rfl, row (and_high_of_not_lower c (Nat.le_of_not_lt hc) h08 h10 h20 h40)⟩

theorem decodeCommand_reserved08 : ∀ low : BitVec 3, decodeCommand (0x08#8 ||| low.setWidth 8) = .reserved08 low := by
  decide

theorem decodeCommand_reserved10 : ∀ low : BitVec 4, decodeCommand (0x10#8 ||| low.setWidth 8) = .reserved10 low := by
  decide

theorem decodeCommand_reserved20 : ∀ low : BitVec 5, decodeCommand (0x20#8 ||| low.setWidth 8) = .reserved20 low := by
  decide

theorem decodeCommand_reserved40 : ∀ low : BitVec 6, decodeCommand (0x40#8 ||| low.setWidth 8) = .reserved40 low := by
  decide

theorem decodeCommand_reserved80 : ∀ low : BitVec 7, decodeCommand (0x80#8 ||| low.setWidth 8) = .reserved80 low := by
  decide

theorem decode_hostCmd_encode {i : Instr} {w : List Byte} (hf : i.format = some .hostCmd) (he : encode i = some w)
    (rest : List Byte) : decode .hostCmd (w ++ rest) = .ok (i, rest) := by
  have reads : ∀ {c : Byte} {j : Instr}, decodeCommand c = j → decode .hostCmd ([c] ++ rest) = .ok (j, rest) := by
    rintro c j rfl; rfl
  cases i <;> cases hf <;> cases he
  case reserved08 low => exact reads (decodeCommand_reserved08 low)
  case reserved10 low => exact reads (decodeCommand_reserved10 low)
  case reserved20 low => exact reads (decodeCommand_reserved20 low)
  case reserved40 low => exact reads (decodeCommand_reserved40 low)
  case reserved80 low => exact reads (decodeCommand_reserved80 low)
  all_goals rfl

end Sys2Proof
end

section
/-! The rows of TELEGRAM_SD and NOTIFY: what each reader reads, and what it makes of the encoder's bytes (R89, R95). -/

namespace Sys2Proof

/-- An invalid start delimiter is none of the five (R89). -/
theorem sdInvalid_wf_iff {use : TelegramUse} {sd : Byte} : (Instr.sdInvalid use sd).wf = true ↔
    sd ≠ 0x10#8 ∧ sd ≠ 0x68#8 ∧ sd ≠ 0xA2#8 ∧ sd ≠ 0xDC#8 ∧ sd ≠ 0xE5#8 := by
  simp [Instr.wf, startDelimiters]

/-- Everything the start of a telegram can be read as (R89). -/
theorem decode_telegramSd_cases {use : TelegramUse} {bs rest : List Byte} {i : Instr}
    (h : decode (.telegramSd use) bs = .ok (i, rest)) :
    (i = .sd1 use ∧ bs = 0x10#8 :: rest) ∨ (∃ le ler, i = .sd2 use le ler ∧ bs = 0x68#8 :: le :: ler :: rest) ∨
      (i = .sd3 use ∧ bs = 0xA2#8 :: rest) ∨ (i = .sd4 use ∧ bs = 0xDC#8 :: rest) ∨
      (i = .sc use ∧ bs = 0xE5#8 :: rest) ∨
      (∃ sd, i = .sdInvalid use sd ∧ (Instr.sdInvalid use sd).wf = true ∧ bs = sd :: rest) := by
  cases bs with
  | nil => cases h
  | cons sd cs =>
    simp only [decode, decodeTelegram] at h
    split_ifs at h with h1 h2 h3 h4 h5
    · cases h; exact .inl ⟨rfl, h1 ▸ rfl⟩
    · match cs with
      | [] => cases h
      | [_] => cases h
      | le :: ler :: _ => cases h; exact .inr (.inl ⟨le, ler, rfl, h2 ▸ rfl⟩)
    · cases h; exact .inr (.inr (.inl ⟨rfl, h3 ▸ rfl⟩))
    · cases h; exact .inr (.inr (.inr (.inl ⟨rfl, h4 ▸ rfl⟩)))
    · cases h; exact .inr (.inr (.inr (.inr (.inl ⟨rfl, h5 ▸ rfl⟩))))
    · cases h; exact .inr (.inr (.inr (.inr (.inr ⟨sd, rfl, sdInvalid_wf_iff.2 ⟨h1, h2, h3, h4, h5⟩, rfl⟩))))

theorem decode_telegramSd_encode {use : TelegramUse} {i : Instr} {w : List Byte} (hwf : i.wf = true)
    (hf : i.format = some (.telegramSd use)) (he : encode i = some w) (rest : List Byte) :
    decode (.telegramSd use) (w ++ rest) = .ok (i, rest) := by
  cases i <;> cases hf <;> cases he
  case sdInvalid sd =>
    obtain ⟨h1, h2, h3, h4, h5⟩ := sdInvalid_wf_iff.1 hwf
    simp only [decode, decodeTelegram, List.cons_append, List.nil_append, if_neg h1, if_neg h2, if_neg h3, if_neg h4,
      if_neg h5]
  all_goals rfl

theorem decode_event_encode {i : Instr} {w : List Byte} (hf : i.format = some .event) (he : encode i = some w)
    (rest : List Byte) : decode .event (w ++ rest) = .ok (i, rest) := by
  cases i <;> cases hf <;> cases he
  all_goals rfl

/-- The byte of a well-formed notifier value is that value (R95). -/
theorem toNat_ofNat_of_replyCountOk {n : Nat} (h : replyCountOk n = true) : (BitVec.ofNat 8 n).toNat = n := by
  simp only [replyCountOk, Bool.and_eq_true, decide_eq_true_eq] at h
  rw [BitVec.toNat_ofNat, Nat.mod_eq_of_lt (by omega)]

/-- The one notifier call whose value carries information, a byte count (R95). -/
theorem decode_sdrComplete (v : Byte) (rest : List Byte) : decode .notify (0x02#8 :: v :: rest) =
    if replyCountOk v.toNat then .ok (.sdrComplete v.toNat, rest) else .error (.illFormedValue 0x02#8 v) := rfl

/-- Everything a notifier call can be read as: its value is 0 but for `SdrComplete` (R95). -/
theorem decode_notify_cases {bs rest : List Byte} {i : Instr} (h : decode .notify bs = .ok (i, rest)) :
    (i = .sdnComplete 0 ∧ bs = 0x00#8 :: 0x00#8 :: rest) ∨ (i = .sdrSent 0 ∧ bs = 0x01#8 :: 0x00#8 :: rest) ∨
      (∃ v : Byte, i = .sdrComplete v.toNat ∧ replyCountOk v.toNat = true ∧ bs = 0x02#8 :: v :: rest) ∨
      (i = .sdrError 0 ∧ bs = 0x03#8 :: 0x00#8 :: rest) := by
  have code_eq : ∀ c : Byte, ¬ 0x03#8 < c → c = 0x00#8 ∨ c = 0x01#8 ∨ c = 0x02#8 ∨ c = 0x03#8 := by decide
  have zero : ∀ v : Byte, decide (v.toNat = 0) = true → v = 0x00#8 := fun v hv =>
    BitVec.eq_of_toNat_eq (of_decide_eq_true hv)
  have accepted : ∀ {j : Instr} {cs : List Byte} {e : DecodeError},
      (if j.wf then Except.ok (j, cs) else .error e) = .ok (i, rest) → j.wf = true ∧ i = j ∧ cs = rest := by
    intro j cs e hj
    split_ifs at hj with hwf
    cases hj
    exact ⟨hwf, rfl, rfl⟩
  match bs with
  | [] => cases h
  | [c] => simp only [decode, decodeNotify] at h; split at h <;> cases h
  | c :: v :: cs =>
    by_cases hc : 0x03#8 < c
    · simp only [decode, decodeNotify, if_pos hc] at h; cases h
    · rcases code_eq c hc with rfl | rfl | rfl | rfl
      · obtain ⟨hwf, rfl, rfl⟩ := accepted (j := .sdnComplete v.toNat) h
        obtain rfl := zero v hwf
        exact .inl ⟨rfl, rfl⟩
      · obtain ⟨hwf, rfl, rfl⟩ := accepted (j := .sdrSent v.toNat) h
        obtain rfl := zero v hwf
        exact .inr (.inl ⟨rfl, rfl⟩)
      · obtain ⟨hwf, rfl, rfl⟩ := accepted (j := .sdrComplete v.toNat) h
        exact .inr (.inr (.inl ⟨v, rfl, hwf, rfl⟩))
      · obtain ⟨hwf, rfl, rfl⟩ := accepted (j := .sdrError v.toNat) h
        obtain rfl := zero v hwf
        exact .inr (.inr (.inr ⟨rfl, rfl⟩))

theorem decode_notify_encode {i : Instr} {w : List Byte} (hwf : i.wf = true) (hf : i.format = some .notify)
    (he : encode i = some w) (rest : List Byte) : decode .notify (w ++ rest) = .ok (i, rest) := by
  have zero : ∀ {val : Nat}, decide (val = 0) = true → val = 0 := of_decide_eq_true
  cases i <;> cases hf <;> cases he
  case sdnComplete val => obtain rfl := zero hwf; rfl
  case sdrSent val => obtain rfl := zero hwf; rfl
  case sdrError val => obtain rfl := zero hwf; rfl
  case sdrComplete n =>
    have hcount : replyCountOk n = true := hwf
    exact (decode_sdrComplete _ rest).trans (by rw [toNat_ofNat_of_replyCountOk hcount, if_pos hcount])

end Sys2Proof
end

section
/-! The round trips over all four formats (R82, R89, R94, R95). -/

namespace Sys2Proof

/-- Settles O1: by the format, each reader on the bytes its rows are written as. -/
theorem decodeOfEncodeIsIdentity : Obligations.DecodeOfEncodeIsIdentity := by
  intro i f w rest hwf hf he
  cases f with
  | hostCmd => exact decode_hostCmd_encode hf he rest
  | telegramSd use => exact decode_telegramSd_encode hwf hf he rest
  | event => exact decode_event_encode hf he rest
  | notify => exact decode_notify_encode hwf hf he rest

/-- Settles O2: by the format and what its reader can answer. -/
theorem encodeOfDecodeIsIdentity : Obligations.EncodeOfDecodeIsIdentity := by
  intro f bs rest i h
  cases f with
  | hostCmd =>
    cases bs with
    | nil => cases h
    | cons c cs =>
      cases h
      obtain ⟨hwf, hf, he⟩ := decodeCommand_spec c
      exact ⟨hwf, hf, [c], he, rfl⟩
  | telegramSd use =>
    rcases decode_telegramSd_cases h with ⟨rfl, rfl⟩ | ⟨le, ler, rfl, rfl⟩ | ⟨rfl, rfl⟩ | ⟨rfl, rfl⟩ | ⟨rfl, rfl⟩ |
      ⟨sd, rfl, hwf, rfl⟩
    all_goals refine ⟨?_, rfl, _, rfl, rfl⟩
    exacts [rfl, rfl, rfl, rfl, rfl, hwf]
  | event =>
    rcases Machine.decode_event_cases h with ⟨b, rfl, rfl⟩ | ⟨rfl, rfl⟩ | ⟨rfl, rfl⟩ | ⟨b, rfl, rfl⟩ | ⟨rfl, rfl⟩
    all_goals exact ⟨rfl, rfl, _, rfl, rfl⟩
  | notify =>
    rcases decode_notify_cases h with ⟨rfl, rfl⟩ | ⟨rfl, rfl⟩ | ⟨v, rfl, hwf, rfl⟩ | ⟨rfl, rfl⟩
    · exact ⟨rfl, rfl, _, rfl, rfl⟩
    · exact ⟨rfl, rfl, _, rfl, rfl⟩
    · exact ⟨hwf, rfl, _, rfl, by rw [BitVec.ofNat_toNat, BitVec.setWidth_eq]; rfl⟩
    · exact ⟨rfl, rfl, _, rfl, rfl⟩

/-- Settles O3: each word by evaluation. -/
theorem sampleWordsDecode : Obligations.SampleWordsDecode :=
  ⟨rfl, rfl, rfl, rfl, rfl, rfl, rfl, rfl⟩

end Sys2Proof
end

section
/-! The telegram size, form by form (R90, R91), and what a start makes of the request or the reply it begins (R110, R111,
R116, R117). -/

namespace Sys2Proof.Machine

variable {s : State}

/-! ## The size -/

@[simp] theorem telegramSize_sd1 (t : List Byte) : telegramSize (0x10#8 :: t) = 6 := rfl
@[simp] theorem telegramSize_sd3 (t : List Byte) : telegramSize (0xA2#8 :: t) = 14 := rfl
@[simp] theorem telegramSize_sd4 (t : List Byte) : telegramSize (0xDC#8 :: t) = 3 := rfl
@[simp] theorem telegramSize_sc (t : List Byte) : telegramSize (0xE5#8 :: t) = 1 := rfl

/-- The variable-length form has a size where the length field agrees with its copy and is in range (R90). -/
theorem telegramSize_sd2 (le ler : Byte) (t : List Byte) : telegramSize (0x68#8 :: le :: ler :: t) =
    if le = ler ∧ 4 ≤ le.toNat ∧ le.toNat ≤ 249 then le.toNat + 6 else 0 := by
  have hneg : (le ≠ ler ∨ le.toNat < 4 ∨ 249 < le.toNat) ↔ ¬ (le = ler ∧ 4 ≤ le.toNat ∧ le.toNat ≤ 249) := by
    simp only [not_and_or, not_le]
  have hdef : telegramSize (0x68#8 :: le :: ler :: t) =
      if le ≠ ler ∨ le.toNat < 4 ∨ 249 < le.toNat then 0 else le.toNat + 6 := rfl
  rw [hdef, if_congr hneg rfl rfl, ite_not]

/-- A first byte that is no start delimiter gives no size (R90). -/
theorem telegramSize_of_sdInvalid {use : TelegramUse} {sd : Byte} (h : (Instr.sdInvalid use sd).wf = true)
    (t : List Byte) : telegramSize (sd :: t) = 0 := by
  obtain ⟨h1, h2, h3, h4, h5⟩ := sdInvalid_wf_iff.1 h
  simp only [telegramSize, h1, h2, h3, h4, h5, if_false]

/-- Settles O22: an equation for each form, and the range by the branches of `telegram_size`. -/
theorem telegramSizeIsAsTabled : Obligations.TelegramSizeIsAsTabled := by
  refine ⟨telegramSize_sd1, telegramSize_sd3, telegramSize_sd4, telegramSize_sc, telegramSize_sd2, ?invalid, ?range⟩
  case invalid =>
    intro sd t h1 h3 h4 h5 h2
    exact telegramSize_of_sdInvalid (use := .reply) (sdInvalid_wf_iff.2 ⟨h1, h2, h3, h4, h5⟩) t
  case range =>
    have listed : ∀ {n : Nat}, n ∈ [0, 1, 3, 6, 14] → n ∈ [0, 1, 3, 6, 14] ∨ (10 ≤ n ∧ n ≤ 255) := .inl
    intro t
    unfold telegramSize
    split
    · exact listed (by decide)
    · split_ifs
      iterate 4 exact listed (by decide)
      · split
        · split_ifs
          · exact listed (by decide)
          · right; omega
        · exact listed (by decide)
      · exact listed (by decide)

/-- Settles O23: `telegram_size` looks behind byte 0 only after 0x68, and there at two bytes. -/
theorem telegramSizeDependsOnlyOnStart : Obligations.TelegramSizeDependsOnlyOnStart := by
  refine fun sd t u => ⟨fun h => ?other, ?sd2⟩
  case other => simp only [telegramSize, if_neg h]
  case sd2 =>
    match t with
    | [] => rfl
    | [_] => rfl
    | _ :: _ :: _ => rfl

/-! ## The start of a request -/

/-- In `Idle` a start that gives no size changes nothing (R110, R111). -/
theorem resolveTelegram_request_zero (k : SendKind) (h : s.phyState = .idle) :
    resolveTelegram (.request k) 0 s = .next s := by
  simp [resolveTelegram, acceptTelegram, h]

/-- In `Idle` a start that gives a size installs the transfer (R110, R111). -/
theorem resolveTelegram_request_pos (k : SendKind) (h : s.phyState = .idle) {n : Nat} (hn : n ≠ 0) :
    resolveTelegram (.request k) n s = .next (installTransfer k n s) := by
  simp [resolveTelegram, acceptTelegram, h, hn]

/-- Settles O24: the request takes or rejects the size its start gives. -/
theorem outgoingStartDelimiters : Obligations.OutgoingStartDelimiters := by
  intro k s h
  have installs : ∀ {n : Nat}, n ≠ 0 → resolveTelegram (.request k) n s = .next (installTransfer k n s) :=
    resolveTelegram_request_pos k h
  refine ⟨installs (by decide), installs (by decide), installs (by decide), installs (by decide),
    fun le ler => ?sd2, fun sd hsd => ?invalid⟩
  case sd2 =>
    show resolveTelegram (.request k) (telegramSize [0x68#8, le, ler]) s = _
    rw [telegramSize_sd2]
    split_ifs
    · exact installs (Nat.succ_ne_zero _)
    · exact resolveTelegram_request_zero k h
  case invalid =>
    show resolveTelegram (.request k) (telegramSize [sd]) s = _
    rw [telegramSize_of_sdInvalid hsd]
    exact resolveTelegram_request_zero k h

/-! ## The start of a reply -/

/-- In `ReceivingSdr` a start that gives no size aborts the receive with NACK (R116, R117). -/
theorem resolveTelegram_reply_zero (h : s.phyState = .receivingSdr) :
    resolveTelegram .reply 0 s = .next (setBlocked false (endReceive (setPhySize 0 s))).withNack := by
  rw [resolveTelegram_reply h, resolveReply, if_pos rfl, execFinish_error]

/-- In `ReceivingSdr` a start that gives a size the reply has not reached sets it (R116). -/
theorem resolveTelegram_reply_partial (h : s.phyState = .receivingSdr) {n : Nat} (hn : n ≠ 0)
    (hc : s.phyCursor ≠ n) : resolveTelegram .reply n s = .next (setPhySize n s) := by
  rw [resolveTelegram_reply h, resolveReply, if_neg hn, completeIfWhole, if_neg fun hw => hc hw.2, handlerReturn_eq]

/-- In `ReceivingSdr` a start that gives the size reached ends the receive and queues the reply (R116, R117, R193). -/
theorem resolveTelegram_reply_whole (h : s.phyState = .receivingSdr) {reply : List Byte} (hn : reply.length ≠ 0)
    (hc : s.phyCursor = reply.length) (hr : memReadRange .txPkt 3 reply.length s = .ok reply) :
    resolveTelegram .reply reply.length s = .next ((endReceive (setPhySize reply.length s)).withSrdReply reply) := by
  have hread : memReadRange .txPkt 3 reply.length (endReceive (setPhySize reply.length s)) = .ok reply :=
    Eq.trans (memReadRange_congr fun i _ _ => show s.txPkt.read i = s.txPkt.read i from rfl) hr
  rw [resolveTelegram_reply h, resolveReply, if_neg hn, completeIfWhole, if_pos ⟨hn, hc⟩, execFinish_complete,
    setPhySize_phyCursor, hc, execQueueReply_srdReply hread]

/-- Settles O25: the receiver resolves the size the start gives; the cursor has reached it only for 0xE5. -/
theorem replyStartDelimiters : Obligations.ReplyStartDelimiters := by
  intro s h
  have takes : ∀ {n : Nat}, n ≠ 0 → s.phyCursor ≠ n → resolveTelegram .reply n s = .next (setPhySize n s) :=
    resolveTelegram_reply_partial h
  refine ⟨fun hc => ⟨takes (n := 6) (by decide) (by omega), takes (n := 14) (by decide) (by omega),
    takes (n := 3) (by decide) (by omega), fun v hv => ?sc, fun sd hsd => ?invalid⟩, fun hc le ler => ?sd2⟩
  case sc =>
    have hread : memReadRange .txPkt 3 1 s = .ok [v] := by
      simp only [memReadRange, memRead_of_read (b := .txPkt) hv (by decide)]
    exact resolveTelegram_reply_whole (reply := [v]) h Nat.one_ne_zero hc hread
  case invalid =>
    show resolveTelegram .reply (telegramSize [sd]) s = _
    rw [telegramSize_of_sdInvalid hsd]
    exact resolveTelegram_reply_zero h
  case sd2 =>
    show resolveTelegram .reply (telegramSize [0x68#8, le, ler]) s = _
    rw [telegramSize_sd2]
    split_ifs
    · exact takes (by omega) (by omega)
    · exact resolveTelegram_reply_zero h

end Sys2Proof.Machine
end

section
/-! The packet checksum as arithmetic modulo 256 (R86). -/

namespace Sys2Proof.Machine

theorem byteSum_toNat (p : List Byte) : (byteSum p).toNat = (p.map BitVec.toNat).sum % 256 := by
  induction p with
  | nil => rfl
  | cons b p ih =>
    rw [byteSum, BitVec.toNat_add, ih, List.map_cons, List.sum_cons]
    omega

theorem fcs_toNat (cmd size : Byte) (p : List Byte) :
    (fcs cmd size p).toNat = 255 - (cmd.toNat + size.toNat + (p.map BitVec.toNat).sum) % 256 := by
  rw [fcs, BitVec.toNat_not, BitVec.toNat_add, BitVec.toNat_add, byteSum_toNat]
  omega

theorem fcs_perm (cmd size : Byte) {p q : List Byte} (h : p.Perm q) : fcs cmd size p = fcs cmd size q := by
  apply BitVec.eq_of_toNat_eq
  rw [fcs_toNat, fcs_toNat, (h.map BitVec.toNat).sum_eq]

theorem fcs_nil (cmd size : Byte) : fcs cmd size [] = 0xFF#8 ^^^ (cmd + size) := by
  have hnot : ∀ x : Byte, ~~~x = 0xFF#8 ^^^ x := fun x => (BitVec.allOnes_xor (x := x)).symm
  rw [fcs, byteSum, BitVec.add_zero, hnot]

end Sys2Proof.Machine
end

section
/-! The validation of a packet: the bytes it reads, the faults of its reads, and the command it dispatches (R87, R148,
R160). -/

namespace Sys2Proof.Machine

variable {s : State}

/-! ## Reads -/

/-- A range read takes its cells one after the other. -/
theorem memReadRange_succ_ok_iff {b : Buf} {i n : Nat} {v : Byte} {vs : List Byte} :
    memReadRange b i (n + 1) s = .ok (v :: vs) ↔ memRead b i s = .ok v ∧ memReadRange b (i + 1) n s = .ok vs := by
  simp only [memReadRange]
  cases memRead b i s with
  | error r => simp
  | ok w => cases memReadRange b (i + 1) n s <;> simp

/-- A range read faults on its first unwritten cell. -/
theorem memReadRange_of_unwritten {b : Buf} {i n j : Nat} (hmax : i + n ≤ pktMax) (hj : j < n)
    (h : (s.buf b).read (i + j) = none) :
    ∃ k, i ≤ k ∧ k ≤ i + j ∧ (s.buf b).read k = none ∧ memReadRange b i n s = .error (.unwrittenRead b k) := by
  induction n generalizing i j with
  | zero => exact absurd hj (Nat.not_lt_zero j)
  | succ n ih =>
    cases hi : (s.buf b).read i with
    | none =>
      refine ⟨i, Nat.le_refl i, Nat.le_add_right i j, hi, ?_⟩
      simp only [memReadRange, memRead_of_unwritten hi (by omega)]
    | some v =>
      cases j with
      | zero => rw [Nat.add_zero, hi] at h; cases h
      | succ j =>
        obtain ⟨k, hik, hkj, hk, hread⟩ := ih (i := i + 1) (j := j) (by omega) (by omega) (by rwa [Nat.add_right_comm])
        refine ⟨k, by omega, by omega, hk, ?_⟩
        simp only [memReadRange, memRead_of_read hi (by omega), hread]

/-! ## The validation -/

/-- A no-op is exempt from the checksum test and does nothing (R87, R161). -/
theorem execHandlePacket_nop (h : s.rxPkt.read 0 = some 0x00#8) : execHandlePacket s = .next s := by
  rw [execHandlePacket, memRead_of_read (b := .rxPkt) h (by decide)]
  rfl

/-- A reserved command byte is answered with NACK (R169). -/
theorem exec_decodeCommand_of_reserved {cmd : Byte} (h : 8 ≤ cmd.toNat) (s : State) :
    exec (decodeCommand cmd) s = execQueueReply .nack s := by
  have hne : ∀ v : Byte, v.toNat < 8 → cmd ≠ v := by rintro v hv rfl; omega
  unfold decodeCommand
  iterate 8 rw [if_neg (hne _ (by decide))]
  split_ifs
  all_goals rfl

/-- The dispatch runs the instruction its command byte is read as (R82, R160). -/
theorem dispatch_eq_exec_decodeCommand (cmd : Byte) (s : State) : dispatch cmd s = exec (decodeCommand cmd) s := by
  rcases dispatch_cases cmd s with ⟨rfl, h⟩ | ⟨rfl, h⟩ | ⟨rfl, h⟩ | ⟨rfl, h⟩ | ⟨rfl, h⟩ | ⟨rfl, h⟩ | ⟨rfl, h⟩ |
    ⟨rfl, h⟩ | ⟨hres, h⟩
  iterate 8 exact h
  exact h.trans (exec_decodeCommand_of_reserved hres s).symm

/-- Settles O39: a no-op is exempt from the test, and the checksum of the built packet meets it. -/
theorem checksumRoundTrip : Obligations.ChecksumRoundTrip := by
  refine ⟨fun s h => execHandlePacket_nop h, fun s cmd payload hlen hread => ?built⟩
  case built =>
    rw [Nat.add_comm 3] at hread
    obtain ⟨h0, hread⟩ := memReadRange_succ_ok_iff.1 hread
    obtain ⟨h1, hread⟩ := memReadRange_succ_ok_iff.1 hread
    obtain ⟨h2, hpayload⟩ := memReadRange_succ_ok_iff.1 hread
    have hsize : (BitVec.ofNat 8 payload.length).toNat = payload.length := by
      rw [BitVec.toNat_ofNat, Nat.mod_eq_of_lt (by omega)]
    have heq := execHandlePacket_eq (memRead_ok_iff.1 h0).2 (memRead_ok_iff.1 h1).2 (memRead_ok_iff.1 h2).2
      (hsize.symm ▸ hpayload)
    exact heq.trans ((if_neg fun hbad => hbad.2 rfl).trans (dispatch_eq_exec_decodeCommand cmd s))

/-- A command other than the no-op faults where the read of its size does (R148, R203). -/
theorem execHandlePacket_fault_of_size {cmd : Byte} {r : Fault} (h0 : s.rxPkt.read 0 = some cmd) (hc : cmd ≠ 0x00#8)
    (h1 : memRead .rxPkt 1 s = .error r) : execHandlePacket s = .fault r := by
  rw [execHandlePacket, memRead_of_read (b := .rxPkt) h0 (by decide), withValue_ok, if_neg hc, h1, withValue_error]

/-- A command other than the no-op faults where the read of its payload does (R148, R203). -/
theorem execHandlePacket_fault_of_payload {cmd size cs : Byte} {r : Fault} (h0 : s.rxPkt.read 0 = some cmd)
    (hc : cmd ≠ 0x00#8) (h1 : s.rxPkt.read 1 = some size) (h2 : s.rxPkt.read 2 = some cs)
    (hp : memReadRange .rxPkt 3 size.toNat s = .error r) : execHandlePacket s = .fault r := by
  rw [execHandlePacket, memRead_of_read (b := .rxPkt) h0 (by decide), withValue_ok, if_neg hc,
    memRead_of_read (b := .rxPkt) h1 (by decide), withValue_ok, memRead_of_read (b := .rxPkt) h2 (by decide),
    withValue_ok, hp, withValue_error]

/-- Settles O40: the sum modulo 256 gives the checksum, and each read of `handle_packet` faults on its unwritten cell. -/
theorem checksumIsComplementOfSum : Obligations.ChecksumIsComplementOfSum := by
  refine ⟨fcs_toNat, fun cmd size p q h => fcs_perm cmd size h, fcs_nil, rfl, fun s h0 => ?cmd,
    fun s cmd h0 hc h1 => ?size, fun s cmd size cs j h0 hc h1 h2 hj hunwritten => ?payload⟩
  case cmd =>
    exact withValue_eq_fault.2 (.inl (memRead_of_unwritten (b := .rxPkt) h0 (by decide)))
  case size =>
    exact execHandlePacket_fault_of_size h0 hc (memRead_of_unwritten (b := .rxPkt) h1 (by decide))
  case payload =>
    have hmax : 3 + size.toNat ≤ pktMax := by
      have hbyte : size.toNat < 256 := size.isLt
      unfold pktMax; omega
    obtain ⟨i, h3, hij, hi, hread⟩ := memReadRange_of_unwritten (b := .rxPkt) hmax hj hunwritten
    exact ⟨i, h3, hij, hi, execHandlePacket_fault_of_payload h0 hc h1 h2 hread⟩

end Sys2Proof.Machine
end

section
/-! The UART's events in a running machine: the handler each runs where it is admitted, and that no handler is refused
(R114 to R119, R140, R204). -/

namespace Sys2Proof.Machine

variable {s : State}

/-! ## Admission -/

theorem admitsUdre_iff : admitsUdre s = true ↔ s.udreIe = true ∧ s.uartTxq.length < Config.uartTxqCap := by
  simp [admitsUdre]

theorem admitsTxc_iff : admitsTxc s = true ↔ s.uartTxq = [] := by simp [admitsTxc]

theorem admitsShift_iff : admitsShift s = true ↔ s.uartTxq ≠ [] := by simp [admitsShift]

theorem exec_uartUdre_admitted (hr : s.running) (hie : s.udreIe = true)
    (hroom : s.uartTxq.length < Config.uartTxqCap) : exec .uartUdre s = udreHandler s :=
  takeInterrupt_admitted hr (admitsUdre_iff.2 ⟨hie, hroom⟩)

theorem exec_uartTxc_admitted (hr : s.running) (hq : s.uartTxq = []) : exec .uartTxc s = txcHandler s :=
  takeInterrupt_admitted hr (admitsTxc_iff.2 hq)

theorem exec_uartRxc_admitted (hr : s.running) (hen : s.rxEn = true) (b : Byte) :
    exec (.uartRxc b) s = rxcHandler b s :=
  takeInterrupt_admitted hr hen

theorem exec_uartShift_admitted (hr : s.running) (hq : s.uartTxq ≠ []) : exec .uartShift s = shiftOne s :=
  takeInterrupt_admitted hr (admitsShift_iff.2 hq)

/-! ## The transmitter's handlers -/

/-- A send with bytes left queues the next one (R114). -/
theorem udreHandler_of_written {v : Byte} (hs : s.phyState.sending = true) (hc : s.phyCursor < s.phySize)
    (hv : memRead .rxPkt (3 + s.phyCursor) s = .ok v) : udreHandler s = .next (queueTelegramByte v s) := by
  unfold udreHandler hdrLen
  rw [if_pos ⟨hs, hc⟩, hv, withValue_ok, handlerReturn_eq]

/-- With nothing to send the source is disabled (R114, D7). -/
theorem udreHandler_of_nothing (h : ¬ (s.phyState.sending = true ∧ s.phyCursor < s.phySize)) :
    udreHandler s = .next (disableUdre s) := by
  unfold udreHandler
  rw [if_neg h, handlerReturn_eq]

/-- Everything the data-register-empty handler can do (R114). -/
theorem udreHandler_cases (s : State) :
    udreHandler s = .next (disableUdre s) ∨
      (∃ v, s.rxPkt.read (3 + s.phyCursor) = some v ∧ udreHandler s = .next (queueTelegramByte v s)) ∨
      (∃ r, udreHandler s = .fault r) := by
  by_cases h : s.phyState.sending = true ∧ s.phyCursor < s.phySize
  · cases hv : memRead .rxPkt (3 + s.phyCursor) s with
    | ok v => exact .inr (.inl ⟨v, (memRead_ok_iff.1 hv).2, udreHandler_of_written h.1 h.2 hv⟩)
    | error r =>
      refine .inr (.inr ⟨r, ?_⟩)
      unfold udreHandler
      rw [if_pos h]
      exact withValue_eq_fault.2 (.inl hv)
  · exact .inl (udreHandler_of_nothing h)

theorem txcHandler_of_no_tail (ht : s.phyTail = false) : txcHandler s = .next s := by
  unfold txcHandler
  rw [if_pos ht, handlerReturn_eq]

/-- The tail of an SDR send: the bus turns around and `SdrSent` unblocks the link (R115, R192). -/
theorem txcHandler_sdr (ht : s.phyTail = true) (hp : s.phyState = .sendingSdr) :
    txcHandler s = .next (setBlocked false (startReceive s)) := by
  simp only [txcHandler, ht, hp]
  rfl

/-- The tail of an SDN send: `SdnComplete` unblocks the link and queues ACK (R115, R191). -/
theorem txcHandler_sdn (ht : s.phyTail = true) (hp : s.phyState = .sendingSdn) :
    txcHandler s = .next (setBlocked false (endSdn s)).withAck := by
  simp only [txcHandler, ht, hp]
  rfl

/-- The tail flag outside a send is only cleared (R115, D8). -/
theorem txcHandler_not_sending (ht : s.phyTail = true) (hp : s.phyState = .idle ∨ s.phyState = .receivingSdr) :
    txcHandler s = .next (clearTail s) := by
  rcases hp with hp | hp <;>
  · simp only [txcHandler, ht, hp]
    rfl

/-- Everything the transmit-complete handler can do (R115). -/
theorem txcHandler_cases (s : State) :
    txcHandler s = .next s ∨ txcHandler s = .next (clearTail s) ∨
      txcHandler s = .next (setBlocked false (startReceive s)) ∨
      txcHandler s = .next (setBlocked false (endSdn s)).withAck := by
  cases ht : s.phyTail with
  | false => exact .inl (txcHandler_of_no_tail ht)
  | true =>
    cases hp : s.phyState with
    | idle => exact .inr (.inl (txcHandler_not_sending ht (.inl hp)))
    | receivingSdr => exact .inr (.inl (txcHandler_not_sending ht (.inr hp)))
    | sendingSdr => exact .inr (.inr (.inl (txcHandler_sdr ht hp)))
    | sendingSdn => exact .inr (.inr (.inr (txcHandler_sdn ht hp)))

/-- The oldest queued byte goes to the line (R118). -/
theorem shiftOne_of_cons {v : Byte} {q : List Byte} (hq : s.uartTxq = v :: q) :
    shiftOne s = .next (putOnWire v q s) := by
  simp only [shiftOne, hq, handlerReturn_eq]

/-! ## No handler is refused -/

theorem udreHandler_ne_refused (s : State) (r : Refusal) : udreHandler s ≠ .refused r := by
  rcases udreHandler_cases s with h | ⟨v, -, h⟩ | ⟨_, h⟩ <;> simp [h]

theorem txcHandler_ne_refused (s : State) (r : Refusal) : txcHandler s ≠ .refused r := by
  rcases txcHandler_cases s with h | h | h | h <;> simp [h]

theorem replyByte_ne_refused (b : Byte) (s : State) (r : Refusal) : replyByte b s ≠ .refused r := by
  rcases replyByte_cases b s with ⟨-, -, h⟩ | ⟨_, -, -, -, h⟩ | ⟨_, _, -, -, -, -, h⟩ | ⟨-, -, h⟩ <;> rw [h]
  · exact resolveTelegram_ne_refused _ _ _ r
  · exact resolveTelegram_ne_refused _ _ _ r
  · simp
  · exact completeIfWhole_ne_refused _ r

theorem rxcHandler_ne_refused (b : Byte) (s : State) (r : Refusal) : rxcHandler b s ≠ .refused r := by
  unfold rxcHandler
  split
  · simp
  · exact withValue_ne_refused fun _ _ => replyByte_ne_refused b _ r

theorem receive_ne_refused (b : Byte) (s : State) (r : Refusal) : receive b s ≠ .refused r := by
  unfold receive
  split
  · simp
  · split
    · simp
    · refine withValue_ne_refused fun _ _ => withValue_ne_refused fun u _ => ?_
      rcases packetComplete_cases u with ⟨-, h⟩ | ⟨-, -, h⟩ <;> rw [h]
      · simp
      · exact andThen_ne_refused (execHandlePacket_ne_refused u r) fun _ _ => by simp

/-- Settles O9: each event is `takeInterrupt` of its admission and of a handler that is not refused. -/
theorem eventsAreAdmittedAsRuled : Obligations.EventsAreAdmittedAsRuled := by
  intro s hr
  refine ⟨fun b r => ?spi, fun ⟨hie, hroom⟩ r => ?udre, fun h => ?noUdre, fun hq r => ?txc, fun hq => ?noTxc,
    fun hen b r => ?rxc, fun hen b => takeInterrupt_notAdmitted hr hen, fun hq r => ?shift, fun hq => ?noShift⟩
  case spi =>
    have hspi : exec (.spiXfer b) s = spiHandler b s := takeInterrupt_admitted hr rfl
    exact hspi ▸ withValue_ne_refused fun _ _ => receive_ne_refused b _ r
  case udre => exact exec_uartUdre_admitted hr hie hroom ▸ udreHandler_ne_refused s r
  case noUdre => exact takeInterrupt_notAdmitted hr (Bool.not_eq_true _ ▸ mt admitsUdre_iff.1 h)
  case txc => exact exec_uartTxc_admitted hr hq ▸ txcHandler_ne_refused s r
  case noTxc => exact takeInterrupt_notAdmitted hr (Bool.not_eq_true _ ▸ mt admitsTxc_iff.1 hq)
  case rxc => exact exec_uartRxc_admitted hr hen b ▸ rxcHandler_ne_refused b s r
  case shift =>
    obtain ⟨v, q, hcons⟩ := List.exists_cons_of_ne_nil hq
    rw [exec_uartShift_admitted hr hq, shiftOne_of_cons hcons]
    simp
  case noShift => exact takeInterrupt_notAdmitted hr (Bool.not_eq_true _ ▸ mt admitsShift_iff.1 (not_not.2 hq))

end Sys2Proof.Machine
end

section
/-! What UDRE, TXC and SHIFT do where they are admitted (R114, R115, R118). -/

namespace Sys2Proof.Machine

/-- Settles O26: `queueTelegramByte` of the byte at the cursor, by whether it is the last. -/
theorem udreQueuesNextByte : Obligations.UdreQueuesNextByte := by
  intro s v hr hie hroom hsend hc hmax hv
  have hsending : s.phyState.sending = true := by rcases hsend with h | h <;> rw [h] <;> rfl
  have hread : memRead .rxPkt (3 + s.phyCursor) s = .ok v :=
    memRead_of_read (b := .rxPkt) hv (by unfold pktMax; omega)
  rw [exec_uartUdre_admitted hr hie hroom, udreHandler_of_written hsending hc hread, queueTelegramByte]
  split_ifs <;> rfl

/-- Settles O27: outside a send, or with the cursor at the size, there is no byte to queue. -/
theorem udreWithNothingToSend : Obligations.UdreWithNothingToSend := by
  intro s hr hie hroom hnothing
  have hn : ¬ (s.phyState.sending = true ∧ s.phyCursor < s.phySize) := by
    rintro ⟨hs, hc⟩
    rcases hnothing with hp | hp | hsize
    · simp [hp, PhyState.sending] at hs
    · simp [hp, PhyState.sending] at hs
    · omega
  exact (exec_uartUdre_admitted hr hie hroom).trans (udreHandler_of_nothing hn)

/-- Settles O28: the tail of an SDR send starts the receive and unblocks the link. -/
theorem txcEndsSdrSend : Obligations.TxcEndsSdrSend := fun _ hr hq ht hp =>
  (exec_uartTxc_admitted hr hq).trans (txcHandler_sdr ht hp)

/-- Settles O29: the tail of an SDN send ends it, unblocks the link and queues ACK. -/
theorem txcEndsSdnSend : Obligations.TxcEndsSdnSend := fun _ hr hq ht hp =>
  (exec_uartTxc_admitted hr hq).trans (txcHandler_sdn ht hp)

/-- Settles O30: by the tail flag. -/
theorem txcOutsideTail : Obligations.TxcOutsideTail := fun _ hr hq =>
  ⟨fun ht => (exec_uartTxc_admitted hr hq).trans (txcHandler_of_no_tail ht),
    fun ht hp => (exec_uartTxc_admitted hr hq).trans (txcHandler_not_sending ht hp)⟩

/-- Settles O31: SHIFT is admitted by the queued byte it puts on the line. -/
theorem shiftPutsByteOnWire : Obligations.ShiftPutsByteOnWire := fun _ _ _ hr hq =>
  (exec_uartShift_admitted hr (hq ▸ List.cons_ne_nil _ _)).trans (shiftOne_of_cons hq)

end Sys2Proof.Machine
end

section
/-! A received byte: stored, counted, and resolved by its place in the reply (R116). -/

namespace Sys2Proof.Machine

variable {s : State}

/-- A range read depends on its own buffer only. -/
theorem memReadRange_of_buf_eq (s t : State) {b : Buf} (h : t.buf b = s.buf b) (i n : Nat) :
    memReadRange b i n t = memReadRange b i n s :=
  memReadRange_congr fun _ _ _ => h ▸ rfl

theorem memReadRange_endReceive (s : State) (i n : Nat) :
    memReadRange .txPkt i n (endReceive s) = memReadRange .txPkt i n s :=
  memReadRange_of_buf_eq s (endReceive s) rfl i n

/-- The state after a reply byte was stored and counted, before it is resolved (R116). -/
abbrev State.afterReplyByte (s : State) (b : Byte) : State :=
  setPhyCursor (s.phyCursor + 1) (s.setCell .txPkt (3 + s.phyCursor) b)

/-- The byte just stored reads back. -/
theorem memRead_afterReplyByte_same (b : Byte) (hc : s.phyCursor < 255) :
    memRead .txPkt (3 + s.phyCursor) (s.afterReplyByte b) = .ok b :=
  memRead_of_read (b := .txPkt) (Memory.read_write_same _ _ b) (by unfold pktMax; omega)

/-- The bytes stored before it read as they did. -/
theorem memRead_afterReplyByte_earlier {j : Nat} {v : Byte} (b : Byte) (hc : s.phyCursor < 255)
    (hj : j < 3 + s.phyCursor) (hv : s.txPkt.read j = some v) : memRead .txPkt j (s.afterReplyByte b) = .ok v :=
  memRead_of_read (b := .txPkt) ((Memory.read_write_other _ b (Nat.ne_of_lt hj)).trans hv) (by unfold pktMax; omega)

/-- Outside `ReceivingSdr` the byte is dropped (D11). -/
theorem rxcHandler_dropped (b : Byte) (h : s.phyState ≠ .receivingSdr) : rxcHandler b s = .next s := by
  unfold rxcHandler
  rw [if_pos h, handlerReturn_eq]

/-- The first byte of a fixed form gives the size (R91). -/
theorem replyByte_first {b : Byte} (hc : s.phyCursor = 1) (hb : b ≠ 0x68#8) :
    replyByte b s = resolveTelegram .reply (telegramSize [b]) s := by
  unfold replyByte
  rw [if_pos ⟨hc, hb⟩]

/-- The third byte of a 0x68 reply gives the size (R91). -/
theorem replyByte_third {b : Byte} {t : List Byte} (hc : s.phyCursor = 3) (h0 : memRead .txPkt 3 s = .ok 0x68#8)
    (ht : memReadRange .txPkt 3 3 s = .ok t) : replyByte b s = resolveTelegram .reply (telegramSize t) s := by
  unfold replyByte
  rw [if_neg fun h => absurd (hc.symm.trans h.1) (by decide), if_pos hc, h0, withValue_ok, if_pos rfl, ht,
    withValue_ok]

/-- Every other byte is only tested for completing the reply (R116). -/
theorem replyByte_other {b : Byte} (h1 : s.phyCursor = 1 → b = 0x68#8)
    (h3 : s.phyCursor = 3 → ∃ v, memRead .txPkt 3 s = .ok v ∧ v ≠ 0x68#8) : replyByte b s = completeIfWhole s := by
  unfold replyByte
  rw [if_neg fun h => h.2 (h1 h.1)]
  split
  · next hc =>
    obtain ⟨v, hv, hne⟩ := h3 hc
    rw [hv, withValue_ok, if_neg hne]
  · rfl

theorem completeIfWhole_whole (h0 : s.phySize ≠ 0) (hc : s.phyCursor = s.phySize) :
    completeIfWhole s = execFinish .complete s := if_pos ⟨h0, hc⟩

theorem completeIfWhole_partial (h : s.phySize = 0 ∨ s.phyCursor ≠ s.phySize) : completeIfWhole s = .next s :=
  if_neg fun hw => h.elim hw.1 fun hne => hne hw.2

/-- A start read from one byte runs as the resolution of the size that byte gives (R89, R90). -/
theorem exec_of_decode_single {use : TelegramUse} {b : Byte} {i : Instr} {r : List Byte}
    (h : decode (.telegramSd use) [b] = .ok (i, r)) (s : State) :
    exec i s = resolveTelegram use (telegramSize [b]) s := by
  rcases decode_telegramSd_cases h with ⟨rfl, hb⟩ | ⟨le, ler, -, hb⟩ | ⟨rfl, hb⟩ | ⟨rfl, hb⟩ | ⟨rfl, hb⟩ |
    ⟨sd, rfl, -, hb⟩ <;> cases hb <;> rfl

/-- Settles O32: by the byte's place, with the reply's first byte deciding at byte 3. -/
theorem rxcStoresAndResolves : Obligations.RxcStoresAndResolves := by
  intro s b hr hen
  have hexec : exec (.uartRxc b) s = rxcHandler b s := exec_uartRxc_admitted hr hen b
  refine ⟨fun hp => hexec.trans (rxcHandler_dropped b hp), ?_⟩
  rintro hp hmax u rfl
  have hrun : exec (.uartRxc b) s = replyByte b (s.afterReplyByte b) :=
    hexec.trans (rxcHandler_run hp (by unfold pktMax; omega))
  have hearlier : ∀ {j : Nat} {v : Byte}, j < 3 + s.phyCursor → s.txPkt.read j = some v →
      memRead .txPkt j (s.afterReplyByte b) = .ok v := memRead_afterReplyByte_earlier b hmax
  refine ⟨fun hc hb i r hd => ?first, fun v1 hc h0 h1 => ?third, fun v0 h1 h3 => ?other⟩
  case first =>
    exact hrun.trans ((replyByte_first (congrArg (· + 1) hc) hb).trans (exec_of_decode_single hd _).symm)
  case third =>
    have hsd : memRead .txPkt 3 (s.afterReplyByte b) = .ok 0x68#8 := hearlier (by omega) h0
    have hle : memRead .txPkt 4 (s.afterReplyByte b) = .ok v1 := hearlier (by omega) h1
    have hler : memRead .txPkt (3 + s.phyCursor) (s.afterReplyByte b) = .ok b := memRead_afterReplyByte_same b hmax
    rw [hc] at hler
    have hread : memReadRange .txPkt 3 3 (s.afterReplyByte b) = .ok [0x68#8, v1, b] := by
      simp only [memReadRange, hsd, hle, hler]
    exact hrun.trans (replyByte_third (congrArg (· + 1) hc) hsd hread)
  case other =>
    have hwhole : replyByte b (s.afterReplyByte b) = completeIfWhole (s.afterReplyByte b) := by
      refine replyByte_other (fun hc => h1 (Nat.succ.inj hc)) fun hc => ?_
      have hc : s.phyCursor = 2 := Nat.succ.inj hc
      obtain ⟨h0, hne⟩ := h3 hc
      exact ⟨v0, hearlier (by omega) h0, hne⟩
    exact ⟨fun h => hrun.trans (hwhole.trans (completeIfWhole_partial h)),
      fun h0 hc => hrun.trans (hwhole.trans (completeIfWhole_whole h0 hc))⟩

end Sys2Proof.Machine
end

section
/-! The entry points of PhyLink: the requests, the resets and the end of a receive (R110 to R113, R117). -/

namespace Sys2Proof.Machine

variable {s : State}

theorem request_busy (k : SendKind) (h : s.phyState ≠ .idle) : request k s = .ok (.busy, s) := if_pos h

/-- In `Idle` a request takes or rejects the size of the telegram that stands written (R110, R111). -/
theorem request_of_outgoingSize {n : Nat} (k : SendKind) (hp : s.phyState = .idle) (h : outgoingSize s = .ok n) :
    request k s = .ok (if n = 0 then (.invalidArgument, s) else (.ok, installTransfer k n s)) := by
  simp only [request, acceptTelegram, hp, h, ne_eq, not_true_eq_false, if_false]

/-- The entry points leave the state their request leaves. -/
theorem exec_request_of_ok {p : SendKind → EntryResult × State} (h : ∀ k, request k s = .ok (p k)) :
    exec .requestSdr s = .next (p .sdr).2 ∧ exec .requestSdn s = .next (p .sdn).2 := by
  have hnext : ∀ k, withValue (request k s) (fun p => .next p.2) = .next (p k).2 := fun k =>
    withValue_eq_next.2 ⟨p k, h k, rfl⟩
  exact ⟨hnext .sdr, hnext .sdn⟩

/-- Settles O47: the busy test, then the size of the telegram. -/
theorem entryRequests : Obligations.EntryRequests := by
  intro s
  refine ⟨fun hp => ?busy, fun sd t hp hsd ht => ⟨fun h0 => ?invalid, fun h0 => ?ok⟩⟩
  case busy => exact ⟨(request_busy · hp), exec_request_of_ok (request_busy · hp)⟩
  all_goals have hreq := fun k => request_of_outgoingSize k hp (outgoingSize_of_reads hsd ht)
  case invalid =>
    simp only [if_pos h0] at hreq
    exact ⟨hreq, exec_request_of_ok hreq⟩
  case ok =>
    simp only [if_neg h0] at hreq
    exact ⟨hreq, exec_request_of_ok hreq⟩

/-- Settles O48: both are one state update. -/
theorem phyResetAndReinit : Obligations.PhyResetAndReinit := fun _ => ⟨rfl, fun _ => rfl⟩

/-- The completing end of a receive queues the reply that stands in `tx_pkt[3..]` (R117, R193). -/
theorem execFinish_complete_of_reply {reply : List Byte} (hc : s.phyCursor = reply.length)
    (hr : memReadRange .txPkt 3 reply.length s = .ok reply) :
    execFinish .complete s = .next ((endReceive s).withSrdReply reply) := by
  have hread : memReadRange .txPkt 3 reply.length (endReceive s) = .ok reply :=
    (memReadRange_endReceive s 3 reply.length).trans hr
  rw [execFinish_complete, hc, execQueueReply_srdReply hread]

/-- Settles O50: the completing end queues the reply, the aborting one NACK. -/
theorem finishEndsReceive : Obligations.FinishEndsReceive := by
  rintro s u rfl
  exact ⟨fun _ hc hr => execFinish_complete_of_reply hc hr, execFinish_error s⟩

end Sys2Proof.Machine
end

section
/-! The next states of the UART's events, and what they leave unchanged (R66, R114 to R118). -/

namespace Sys2Proof.Machine

variable {s t u : State}

/-! ## The next states of each event -/

theorem exec_uartUdre_eq_next (h : exec .uartUdre s = .next t) :
    t = disableUdre s ∨ ∃ v, s.rxPkt.read (3 + s.phyCursor) = some v ∧ t = queueTelegramByte v s := by
  obtain ⟨-, -, h⟩ := takeInterrupt_eq_next.1 h
  rcases udreHandler_cases s with he | ⟨v, hv, he⟩ | ⟨_, he⟩
  · cases he.symm.trans h; exact .inl rfl
  · cases he.symm.trans h; exact .inr ⟨v, hv, rfl⟩
  · cases he.symm.trans h

theorem exec_uartShift_eq_next (h : exec .uartShift s = .next t) :
    ∃ v q, s.uartTxq = v :: q ∧ t = putOnWire v q s := by
  obtain ⟨-, hadmit, h⟩ := takeInterrupt_eq_next.1 h
  obtain ⟨v, q, hq⟩ := List.exists_cons_of_ne_nil (admitsShift_iff.1 hadmit)
  cases (shiftOne_of_cons hq).symm.trans h
  exact ⟨v, q, hq, rfl⟩

theorem exec_uartTxc_eq_next (h : exec .uartTxc s = .next t) :
    t = s ∨ t = clearTail s ∨ t = setBlocked false (startReceive s) ∨ t = (setBlocked false (endSdn s)).withAck := by
  obtain ⟨-, -, h⟩ := takeInterrupt_eq_next.1 h
  rcases txcHandler_cases s with he | he | he | he <;> cases he.symm.trans h
  · exact .inl rfl
  · exact .inr (.inl rfl)
  · exact .inr (.inr (.inl rfl))
  · exact .inr (.inr (.inr rfl))

/-- What the receiver makes of the state `u` with its byte counted and its size known: the receive goes on, is aborted
with NACK, or ends with a queued reply (R116, R117). -/
def ReplyGoesTo (u t : State) : Prop :=
  t = u ∨ t = (setBlocked false (endReceive u)).withNack ∨
    ∃ cmd size cs len, t = (endReceive u).withReply cmd size cs len

theorem execFinish_eq_next {ev : FinishEvent} (h : execFinish ev u = .next t) : ReplyGoesTo u t := by
  cases ev with
  | error => cases (execFinish_error u).symm.trans h; exact .inr (.inl rfl)
  | complete =>
    rw [execFinish_complete] at h
    rcases execQueueReply_cases (.srdReply u.phyCursor) (endReceive u) with
      ⟨cmd, size, cs, len, he, -⟩ | ⟨_, _, _, -, he, -⟩
    · cases he.symm.trans h; exact .inr (.inr ⟨cmd, size, cs, len, rfl⟩)
    · cases he.symm.trans h

theorem completeIfWhole_eq_next (h : completeIfWhole u = .next t) : ReplyGoesTo u t := by
  rcases completeIfWhole_cases u with ⟨-, -, he⟩ | ⟨-, he⟩
  · exact execFinish_eq_next (he.symm.trans h)
  · cases he.symm.trans h; exact .inl rfl

theorem resolveTelegram_reply_eq_next {n : Nat} (hp : u.phyState = .receivingSdr)
    (h : resolveTelegram .reply n u = .next t) : ReplyGoesTo (setPhySize n u) t := by
  rw [resolveTelegram_reply hp] at h
  rcases resolveReply_cases n u with ⟨-, he⟩ | ⟨-, -, he⟩ | ⟨-, -, he⟩
  · exact execFinish_eq_next (he.symm.trans h)
  · exact execFinish_eq_next (he.symm.trans h)
  · cases he.symm.trans h; exact .inl rfl

theorem replyByte_eq_next {b : Byte} (hp : u.phyState = .receivingSdr) (h : replyByte b u = .next t) :
    ∃ n, ReplyGoesTo (setPhySize n u) t := by
  rcases replyByte_cases b u with ⟨-, -, he⟩ | ⟨_, -, -, -, he⟩ | ⟨_, _, -, -, -, -, he⟩ | ⟨-, -, he⟩
  · exact ⟨_, resolveTelegram_reply_eq_next hp (he.symm.trans h)⟩
  · exact ⟨_, resolveTelegram_reply_eq_next hp (he.symm.trans h)⟩
  · cases he.symm.trans h
  · exact ⟨u.phySize, completeIfWhole_eq_next (he.symm.trans h)⟩

theorem exec_uartRxc_eq_next {b : Byte} (h : exec (.uartRxc b) s = .next t) :
    t = s ∨ ∃ n, ReplyGoesTo (setPhySize n (s.afterReplyByte b)) t := by
  obtain ⟨-, -, h⟩ := takeInterrupt_eq_next.1 h
  by_cases hp : s.phyState = .receivingSdr
  · unfold rxcHandler at h
    rw [if_neg (not_not.2 hp)] at h
    obtain ⟨u, hu, h⟩ := withValue_eq_next.1 h
    obtain ⟨-, rfl⟩ := memWrite_ok_iff.1 hu
    exact .inr (replyByte_eq_next (u := s.afterReplyByte b) hp h)
  · cases (rxcHandler_dropped b hp).symm.trans h
    exact .inl rfl

/-! ## Frames -/

/-- The fields no UART event writes: the receive packet and its assembler, the configuration, the host's bytes and the
bookkeeping. -/
def State.hostSide (s : State) :=
  (s.rxPkt, s.rxCursor, s.rxExpected, s.baud, s.cfgRxTimeoutMs, s.hostLog, s.fault, s.booted, s.script)

theorem ReplyGoesTo.hostSide_eq (h : ReplyGoesTo u t) : t.hostSide = u.hostSide := by
  rcases h with rfl | rfl | ⟨_, _, _, _, rfl⟩ <;> rfl

/-- The header is the only part of `tx_pkt` the end of a receive writes (R170). -/
theorem ReplyGoesTo.read_payload (h : ReplyGoesTo u t) {a : Nat} (ha : 3 ≤ a) :
    t.txPkt.read a = u.txPkt.read a := by
  rcases h with rfl | rfl | ⟨_, _, _, _, rfl⟩
  · rfl
  · exact withReply_read_payload _ _ _ _ ha
  · exact withReply_read_payload _ _ _ _ ha

/-- The events of the UART. -/
def IsUartEvent (i : Instr) : Prop := ∃ b, i = .uartUdre ∨ i = .uartTxc ∨ i = .uartRxc b ∨ i = .uartShift

theorem IsUartEvent.hostSide_eq {i : Instr} (hi : IsUartEvent i) (h : exec i s = .next t) :
    t.hostSide = s.hostSide := by
  obtain ⟨b, rfl | rfl | rfl | rfl⟩ := hi
  · rcases exec_uartUdre_eq_next h with rfl | ⟨_, -, rfl⟩ <;> rfl
  · rcases exec_uartTxc_eq_next h with rfl | rfl | rfl | rfl <;> rfl
  · rcases exec_uartRxc_eq_next h with rfl | ⟨_, h⟩
    · rfl
    · exact h.hostSide_eq
  · obtain ⟨_, _, -, rfl⟩ := exec_uartShift_eq_next h
    rfl

/-- Settles O52: by the next states of each event. -/
theorem uartEventsFrame : Obligations.UartEventsFrame := by
  intro s t
  refine ⟨fun i b hi h => ?hostSide, fun i hi h => ?transmitPacket, fun h a ha => ?txc, fun b h a ha hne => ?rxc⟩
  case hostSide =>
    have hside := IsUartEvent.hostSide_eq ⟨b, hi⟩ h
    simp only [State.hostSide, Prod.mk.injEq] at hside
    obtain ⟨hpkt, hside⟩ := hside
    exact ⟨fun a => hpkt ▸ rfl, hside⟩
  case transmitPacket =>
    rcases hi with rfl | rfl
    · rcases exec_uartUdre_eq_next h with rfl | ⟨_, -, rfl⟩ <;> exact ⟨fun _ => rfl, rfl, rfl, rfl, rfl⟩
    · obtain ⟨_, _, -, rfl⟩ := exec_uartShift_eq_next h
      exact ⟨fun _ => rfl, rfl, rfl, rfl, rfl⟩
  case txc =>
    rcases exec_uartTxc_eq_next h with rfl | rfl | rfl | rfl
    iterate 3 rfl
    exact withReply_read_payload _ _ _ _ ha
  case rxc =>
    rcases exec_uartRxc_eq_next h with rfl | ⟨_, h⟩
    · rfl
    · exact (h.read_payload ha).trans (Memory.read_write_other _ b hne)

end Sys2Proof.Machine
end

section
/-! A step moves at most one byte on each link (R43, R44, R118, R140, R141). -/

namespace Sys2Proof.Machine

variable {s t : State}

/-! ## What the host's byte leaves unchanged: the UART's queue and both logs -/

/-- The environment (R42 to R44). -/
def State.environment (s : State) := (s.uartTxq, s.wireLog, s.hostLog)

variable {e : List Byte × List (Byte × Bool) × List Byte}

theorem ensures_environment_queueReply (h : s.environment = e) (kind : ReplyKind) :
    Ensures (execQueueReply kind s) (·.environment = e) := by
  rcases execQueueReply_cases kind s with ⟨_, _, _, _, he, -⟩ | ⟨_, _, r, -, he, -⟩
  · exact he ▸ ensures_next.2 h
  · exact he ▸ ensures_fault r _

theorem ensures_environment_startRequest (h : s.environment = e) (k : SendKind) :
    Ensures (startRequest k s) (·.environment = e) := by
  unfold startRequest
  rcases request_cases k s with ⟨-, he⟩ | ⟨-, -, he⟩ | ⟨n, -, -, -, he⟩ | ⟨r, -, -, he⟩ <;> rw [he]
  · exact ensures_environment_queueReply h .nack
  · exact ensures_environment_queueReply h .nack
  · exact ensures_next.2 h
  · exact ensures_fault r _

theorem ensures_environment_acceptConfig (h : s.environment = e) :
    Ensures (acceptConfig s) (·.environment = e) := by
  refine ensures_withValue fun ms _ => ?_
  have htimeout : (setTimeout ms s).environment = e := h
  exact ensures_environment_queueReply htimeout .ack

theorem ensures_environment_setConfig (h : s.environment = e) :
    Ensures (execSetConfig s) (·.environment = e) := by
  unfold execSetConfig
  refine ensures_withValue fun _ _ => ?_
  split
  · exact ensures_environment_queueReply h .nack
  · refine ensures_withValue fun _ _ => ?_
    split
    · exact ensures_environment_acceptConfig h
    · split
      · exact ensures_environment_queueReply h .nack
      · next be _ =>
        have hreinit : (setBaud be (phyReset s)).environment = e := h
        exact ensures_andThen (ensures_next.2 hreinit) fun _ hu => ensures_environment_acceptConfig hu

theorem ensures_environment_dispatch (h : s.environment = e) (cmd : Byte) :
    Ensures (dispatch cmd s) (·.environment = e) :=
  dispatch_of_commands (p := (Ensures · (·.environment = e)))
    (nothing := ensures_next.2 h)
    (reset := execReset_eq s ▸ ensures_next.2 h)
    (config := ensures_environment_setConfig h)
    (send := ensures_environment_startRequest h)
    (reserved := ensures_environment_queueReply h .nack)
    cmd

theorem ensures_environment_handlePacket (h : s.environment = e) :
    Ensures (execHandlePacket s) (·.environment = e) := by
  unfold execHandlePacket
  refine ensures_withValue fun cmd _ => ?_
  split
  · exact ensures_environment_dispatch h cmd
  · refine ensures_withValue fun _ _ => ensures_withValue fun _ _ => ensures_withValue fun _ _ => ?_
    split
    · exact ensures_environment_queueReply h .nack
    · exact ensures_environment_dispatch h cmd

theorem ensures_environment_packetComplete (h : s.environment = e) :
    Ensures (packetComplete s) (·.environment = e) := by
  rcases packetComplete_cases s with ⟨-, he⟩ | ⟨-, -, he⟩
  · exact he ▸ ensures_next.2 h
  · exact he ▸ ensures_andThen (ensures_environment_handlePacket h) fun _ hu => ensures_next.2 hu

theorem storeByte_ok {b : Byte} {u : State} (h : storeByte b s = .ok u) : u = s.afterByte b := by
  unfold storeByte at h
  split at h
  · cases h
  · next hw =>
    obtain ⟨-, rfl⟩ := memWrite_ok_iff.1 hw
    cases h
    rfl

theorem ensures_environment_receive (h : s.environment = e) (b : Byte) :
    Ensures (receive b s) (·.environment = e) := by
  unfold receive
  split
  · exact ensures_next.2 h
  · split
    · exact ensures_next.2 h
    · refine ensures_withValue fun u hu => ?_
      obtain rfl := storeByte_ok hu
      rcases headerComplete_cases (s.afterByte b) with ⟨-, he⟩ | ⟨_, -, -, he⟩ | ⟨r, -, -, he⟩
      · exact he ▸ ensures_environment_packetComplete h
      · exact he ▸ ensures_environment_packetComplete h
      · exact he ▸ ensures_fault r _

/-! ## The exchange with the host -/

/-- A drain hands over the byte R141 gives and leaves the environment alone. -/
theorem drainByte_ok {v : Byte} {u : State} (h : drainByte s = .ok (v, u)) :
    s.byteOut = some v ∧ u.environment = s.environment := by
  rcases drainByte_cases s with ⟨hle, he⟩ | ⟨w, hlt, hw, he⟩ | ⟨_, -, -, he⟩
  · cases he.symm.trans h
    exact ⟨if_neg (Nat.not_lt.2 hle), rfl⟩
  · cases he.symm.trans h
    exact ⟨(if_pos hlt).trans (memRead_ok_iff.1 hw).2, rfl⟩
  · cases he.symm.trans h

/-- An SPI tick changes nothing of the environment but the host's log, which gains the byte out (R140). -/
theorem exec_spiXfer_environment {b : Byte} (h : exec (.spiXfer b) s = .next t) :
    ∃ v, s.byteOut = some v ∧ t.environment = (s.uartTxq, s.wireLog, s.hostLog ++ [v]) := by
  obtain ⟨-, v, u, hdrain, hreceive⟩ := execSpiXfer_eq_next h
  obtain ⟨hv, hu⟩ := drainByte_ok hdrain
  simp only [State.environment, Prod.mk.injEq] at hu
  obtain ⟨hq, hwire, hhost⟩ := hu
  have hlogged : (logHostByte v u).environment = (s.uartTxq, s.wireLog, s.hostLog ++ [v]) := by
    simp only [State.environment, logHostByte_uartTxq, logHostByte_wireLog, logHostByte_hostLog, hq, hwire, hhost]
  exact ⟨v, hv, ensures_environment_receive hlogged b t hreceive⟩

/-! ## The step -/

/-- At most one byte moves between `s` and `t` on each link, and the byte is the next one. -/
def LinksMoveOne (s t : State) : Prop :=
  ((t.wireLog = s.wireLog ∧ t.uartTxq = s.uartTxq) ∨
    (∃ v, s.uartTxq = v :: t.uartTxq ∧ t.wireLog = s.wireLog ++ [(v, s.rts)]) ∨
    (∃ v, s.rxPkt.read (3 + s.phyCursor) = some v ∧ t.uartTxq = s.uartTxq ++ [v] ∧ t.wireLog = s.wireLog)) ∧
  (t.hostLog = s.hostLog ∨ ∃ v, s.byteOut = some v ∧ t.hostLog = s.hostLog ++ [v])

theorem linksMoveOne_of_environment (h : t.environment = s.environment) : LinksMoveOne s t := by
  simp only [State.environment, Prod.mk.injEq] at h
  obtain ⟨hq, hwire, hhost⟩ := h
  exact ⟨.inl ⟨hwire, hq⟩, .inl hhost⟩

theorem linksMoveOne_spiXfer {b : Byte} (h : exec (.spiXfer b) s = .next t) : LinksMoveOne s t := by
  obtain ⟨v, hv, he⟩ := exec_spiXfer_environment h
  simp only [State.environment, Prod.mk.injEq] at he
  obtain ⟨hq, hwire, hhost⟩ := he
  exact ⟨.inl ⟨hwire, hq⟩, .inr ⟨v, hv, hhost⟩⟩

theorem linksMoveOne_uartUdre (h : exec .uartUdre s = .next t) : LinksMoveOne s t := by
  rcases exec_uartUdre_eq_next h with rfl | ⟨v, hv, rfl⟩
  · exact linksMoveOne_of_environment rfl
  · exact ⟨.inr (.inr ⟨v, hv, rfl, rfl⟩), .inl rfl⟩

theorem linksMoveOne_uartShift (h : exec .uartShift s = .next t) : LinksMoveOne s t := by
  obtain ⟨v, q, hq, rfl⟩ := exec_uartShift_eq_next h
  exact ⟨.inr (.inl ⟨v, hq, rfl⟩), .inl rfl⟩

theorem linksMoveOne_uartTxc (h : exec .uartTxc s = .next t) : LinksMoveOne s t := by
  rcases exec_uartTxc_eq_next h with rfl | rfl | rfl | rfl <;> exact linksMoveOne_of_environment rfl

theorem linksMoveOne_uartRxc {b : Byte} (h : exec (.uartRxc b) s = .next t) : LinksMoveOne s t := by
  rcases exec_uartRxc_eq_next h with rfl | ⟨_, rfl | rfl | ⟨_, _, _, _, rfl⟩⟩ <;> exact linksMoveOne_of_environment rfl

/-- Settles O54: boot and an idle step leave the environment alone, and each event moves its own byte. -/
theorem linksMoveOneByteInOrder : Obligations.LinksMoveOneByteInOrder := by
  intro s t hstep
  show LinksMoveOne s t
  obtain ⟨-, ⟨-, hboot⟩ | ⟨-, -, rfl⟩ | ⟨i, rest, -, hd, hevent⟩⟩ := step_cases hstep
  · cases hboot
    exact linksMoveOne_of_environment rfl
  · exact linksMoveOne_of_environment rfl
  · rcases hevent with h | ⟨_, -, rfl⟩
    · show LinksMoveOne (setScript rest s) t
      rcases decode_event_cases hd with ⟨_, rfl, -⟩ | ⟨rfl, -⟩ | ⟨rfl, -⟩ | ⟨_, rfl, -⟩ | ⟨rfl, -⟩
      · exact linksMoveOne_spiXfer h
      · exact linksMoveOne_uartUdre h
      · exact linksMoveOne_uartTxc h
      · exact linksMoveOne_uartRxc h
      · exact linksMoveOne_uartShift h
    · exact linksMoveOne_of_environment rfl

end Sys2Proof.Machine
end

section
/-! Runs of the machine, one event after the other (R9, R97). -/

namespace Sys2Proof.Machine

variable {s t u : State}

/-- A run of any machine goes through its first step. -/
theorem core_run_succ_eq_next {M : Host.Core} {k : Nat} {s t : M.State} :
    M.run (k + 1) s = .next t ↔ ∃ u, M.step s = .next u ∧ M.run k u = .next t := by
  simp only [Host.Core.run]
  cases M.step s <;> simp

theorem runSteps_succ_eq_next {k : Nat} :
    runSteps (k + 1) s = .next t ↔ ∃ u, step s = .next u ∧ runSteps k u = .next t :=
  core_run_succ_eq_next

/-- A run, then one last step. -/
theorem runSteps_snoc {k : Nat} (h : runSteps k s = .next t) (ht : step t = .next u) :
    runSteps (k + 1) s = .next u := by
  induction k generalizing s with
  | zero =>
    cases h
    exact runSteps_succ_eq_next.2 ⟨u, ht, rfl⟩
  | succ k ih =>
    obtain ⟨s', hs, h⟩ := runSteps_succ_eq_next.1 h
    exact runSteps_succ_eq_next.2 ⟨s', hs, ih h⟩

/-- A running machine steps to what the coming event answers. -/
theorem step_of_event {i : Instr} {rest : List Byte} (hr : s.running) (hd : decode .event s.script = .ok (i, rest))
    (he : exec i (setScript rest s) = .next t) : step s = .next t := by
  rw [step_of_decode hr hd, he, recordFault_next]

theorem step_udre {v : Byte} {rest : List Byte} (hr : s.running) (hscript : s.script = 0x01#8 :: rest)
    (hie : s.udreIe = true) (hroom : s.uartTxq.length < Config.uartTxqCap) (hs : s.phyState.sending = true)
    (hc : s.phyCursor < s.phySize) (hv : memRead .rxPkt (3 + s.phyCursor) s = .ok v) :
    step s = .next (setScript rest (queueTelegramByte v s)) :=
  step_of_event hr (hscript ▸ rfl) <|
    (exec_uartUdre_admitted (s := setScript rest s) hr hie hroom).trans (udreHandler_of_written hs hc hv)

theorem step_shift {v : Byte} {q rest : List Byte} (hr : s.running) (hscript : s.script = 0x04#8 :: rest)
    (hq : s.uartTxq = v :: q) : step s = .next (setScript rest (putOnWire v q s)) :=
  step_of_event hr (hscript ▸ rfl) <|
    (exec_uartShift_admitted (s := setScript rest s) hr (hq ▸ List.cons_ne_nil v q)).trans (shiftOne_of_cons hq)

theorem step_txc {rest : List Byte} (hr : s.running) (hscript : s.script = 0x02#8 :: rest) (hq : s.uartTxq = [])
    (ht : txcHandler (setScript rest s) = .next t) : step s = .next t :=
  step_of_event hr (hscript ▸ rfl) ((exec_uartTxc_admitted (s := setScript rest s) hr hq).trans ht)

theorem step_rxc {b : Byte} {rest : List Byte} (hr : s.running) (hscript : s.script = 0x03#8 :: b :: rest)
    (hen : s.rxEn = true) (ht : rxcHandler b (setScript rest s) = .next t) : step s = .next t :=
  step_of_event hr (hscript ▸ rfl) ((exec_uartRxc_admitted (s := setScript rest s) hr hen b).trans ht)

end Sys2Proof.Machine
end

section
/-! A send, from its start to the last byte on the line (R114, R115, R118, R122). -/

namespace Sys2Proof.Machine

variable {s : State}

/-- A send in progress whose queued bytes have all reached the line, with the bytes `bs` of its telegram left. -/
structure State.SendsNext (s : State) (bs : List Byte) : Prop where
  running : s.running
  sending : s.phyState.sending = true
  size : s.phySize = s.phyCursor + bs.length
  enabled : s.udreIe = true
  queue : s.uartTxq = []
  bytes : memReadRange .rxPkt (3 + s.phyCursor) bs.length s = .ok bs

/-- The state after UDRE and SHIFT moved one byte from the telegram to the line. -/
def State.afterSentByte (s : State) (b : Byte) (rest : List Byte) : State :=
  setScript rest (putOnWire b [] (queueTelegramByte b s))

/-- One byte takes the two events `udre; shift` (R97). -/
theorem runSteps_sendByte {b : Byte} {bs rest : List Byte} {k : Nat} {t : State} (h : s.SendsNext (b :: bs))
    (hscript : s.script = 0x01#8 :: 0x04#8 :: rest) (ht : runSteps k (s.afterSentByte b rest) = .next t) :
    runSteps (k + 2) s = .next t := by
  obtain ⟨hread, -⟩ := memReadRange_succ_ok_iff.1 h.bytes
  have hroom : s.uartTxq.length < Config.uartTxqCap := h.queue ▸ Nat.succ_pos _
  have hleft : s.phyCursor < s.phySize := h.size ▸ Nat.lt_add_of_pos_right (Nat.succ_pos _)
  have hudre : step s = .next (setScript (0x04#8 :: rest) (queueTelegramByte b s)) :=
    step_udre h.running hscript h.enabled hroom h.sending hleft hread
  have hq : (queueTelegramByte b s).uartTxq = [b] := congrArg (· ++ [b]) h.queue
  have hshift : step (setScript (0x04#8 :: rest) (queueTelegramByte b s)) = .next (s.afterSentByte b rest) :=
    step_shift h.running rfl hq
  exact runSteps_succ_eq_next.2 ⟨_, hudre, runSteps_succ_eq_next.2 ⟨_, hshift, ht⟩⟩

theorem State.SendsNext.tail {b b' : Byte} {bs rest : List Byte} (h : s.SendsNext (b :: b' :: bs)) :
    (s.afterSentByte b rest).SendsNext (b' :: bs) where
  running := h.running
  sending := h.sending
  size := by
    show s.phySize = s.phyCursor + 1 + (bs.length + 1)
    rw [h.size, List.length_cons, List.length_cons]
    omega
  enabled := by
    have hlast : s.phyCursor + 1 ≠ s.phySize := by rw [h.size, List.length_cons, List.length_cons]; omega
    show (if s.phyCursor + 1 = s.phySize then false else s.udreIe) = true
    rw [if_neg hlast, h.enabled]
  queue := rfl
  bytes := (memReadRange_of_buf_eq s (s.afterSentByte b rest) rfl _ _).trans (memReadRange_succ_ok_iff.1 h.bytes).2

/-- The state once all bytes are on the line: only the tail's transmit-complete is left (R114, R118). -/
def State.afterSend (s : State) (bs script : List Byte) : State :=
  { s with
    wireLog := s.wireLog ++ bs.map (fun b => (b, s.rts))
    uartTxq := []
    phyCursor := s.phySize
    udreIe := false
    phyTail := true
    script := script }

theorem afterSentByte_last {b : Byte} {rest : List Byte} (h : s.SendsNext [b]) :
    s.afterSentByte b rest = s.afterSend [b] rest := by
  have hlast : s.phyCursor + 1 = s.phySize := h.size.symm
  simp only [State.afterSentByte, State.afterSend, queueTelegramByte, putOnWire, setScript, hlast, if_true, List.map]

theorem afterSend_afterSentByte (b : Byte) (bs rest script : List Byte) :
    (s.afterSentByte b rest).afterSend bs script = s.afterSend (b :: bs) script := by
  simp only [State.afterSend, State.afterSentByte, setScript, putOnWire, queueTelegramByte, List.map_cons,
    List.append_assoc, List.singleton_append]

/-- All bytes of a send reach the line in order, two events each (R97, R122). -/
theorem runSteps_send {b : Byte} {bs rest : List Byte} (h : s.SendsNext (b :: bs))
    (hscript : s.script = sendScript (bs.length + 1) ++ rest) :
    runSteps (2 * (bs.length + 1)) s = .next (s.afterSend (b :: bs) (0x02#8 :: rest)) := by
  induction bs generalizing s b with
  | nil => exact runSteps_sendByte h hscript (congrArg _ (afterSentByte_last h))
  | cons b' bs ih =>
    have hrest := ih (s := s.afterSentByte b (sendScript (bs.length + 1) ++ rest)) h.tail rfl
    rw [afterSend_afterSentByte] at hrest
    exact runSteps_sendByte h hscript hrest

/-- Settles O58: the bytes reach the line, then the tail's transmit-complete ends the send. -/
theorem sendReachesWire : Obligations.SendReachesWire := by
  intro s k bs rest hr hp hne hmax hsize hcur htail hie hq hread hscript
  obtain ⟨b, bs, rfl⟩ := List.exists_cons_of_ne_nil hne
  have hsends : s.SendsNext (b :: bs) := {
    running := hr
    sending := by rw [hp]; cases k <;> rfl
    size := by rw [hsize, hcur, Nat.zero_add]
    enabled := hie
    queue := hq
    bytes := by rw [hcur]; exact hread }
  have hsent := runSteps_send hsends hscript
  have ends : ∀ {t : State}, txcHandler (s.afterSend (b :: bs) rest) = .next t →
      runSteps (2 * (b :: bs).length + 1) s = .next t := fun ht =>
    runSteps_snoc hsent (step_txc hr rfl rfl ht)
  cases k with
  | sdr => exact ⟨_, ends (txcHandler_sdr rfl hp), rfl, rfl, rfl, rfl, rfl, rfl, rfl, rfl, rfl, rfl, hr.1, rfl⟩
  | sdn => exact ⟨_, ends (txcHandler_sdn rfl hp), rfl, rfl, rfl, rfl, rfl, rfl, rfl, rfl, rfl, rfl, hr.1, rfl⟩

end Sys2Proof.Machine
end

section
/-! A reply, from the start of the receive to the queued packet (R116, R117, R121, R173). -/

namespace Sys2Proof.Machine

variable {s u : State}

/-! ## The size of a telegram read so far -/

/-- One more byte changes the size only as a fixed form's first byte or as the third one of a 0x68 telegram (R91). -/
theorem telegramSize_snoc {got : List Byte} {b : Byte} (h1 : got = [] → b = 0x68#8)
    (h3 : ∀ e, got ≠ [0x68#8, e]) : telegramSize (got ++ [b]) = telegramSize got := by
  match got with
  | [] =>
    obtain rfl := h1 rfl
    rfl
  | sd :: t =>
    by_cases hsd : sd = 0x68#8
    · subst hsd
      match t with
      | [] => rfl
      | [e] => exact absurd rfl (h3 e)
      | le :: ler :: t => exact (telegramSize_sd2 le ler (t ++ [b])).trans (telegramSize_sd2 le ler t).symm
    · exact (telegramSizeDependsOnlyOnStart sd (t ++ [b]) t).1 hsd

/-- A telegram read in part gives no size yet, or the size of the whole (R91). -/
theorem telegramSize_prefix (p q : List Byte) : telegramSize p = 0 ∨ telegramSize p = telegramSize (p ++ q) := by
  match p with
  | [] => exact .inl rfl
  | sd :: t =>
    by_cases hsd : sd = 0x68#8
    · subst hsd
      match t with
      | [] => exact .inl rfl
      | [_] => exact .inl rfl
      | le :: ler :: t => exact .inr ((telegramSize_sd2 le ler t).trans (telegramSize_sd2 le ler (t ++ q)).symm)
    · exact .inr ((telegramSizeDependsOnlyOnStart sd t (t ++ q)).1 hsd)

/-! ## One byte -/

/-- A size other than 0 is taken and tested for completing the reply (R116). -/
theorem resolveTelegram_reply_pos {n : Nat} (hp : u.phyState = .receivingSdr) (hn : n ≠ 0) :
    resolveTelegram .reply n u = completeIfWhole (setPhySize n u) := by
  rw [resolveTelegram_reply hp, resolveReply, if_neg hn]

/-- Whatever a byte's place in a valid telegram, the receiver has the size of the bytes up to it (R116). `u` has the
byte stored and counted, and the size of those before it. -/
theorem replyByte_of_valid {got todo : List Byte} {b : Byte} (hp : u.phyState = .receivingSdr)
    (hc : u.phyCursor = got.length + 1) (hs : u.phySize = telegramSize got)
    (hread : memReadRange .txPkt 3 (got.length + 1) u = .ok (got ++ [b]))
    (hvalid : telegramSize (got ++ b :: todo) ≠ 0) :
    replyByte b u = completeIfWhole (setPhySize (telegramSize (got ++ [b])) u) := by
  by_cases hfirst : got = [] ∧ b ≠ 0x68#8
  · obtain ⟨rfl, hb⟩ := hfirst
    have hsize : telegramSize [b] ≠ 0 := ((telegramSizeDependsOnlyOnStart b [] todo).1 hb).trans_ne hvalid
    exact (replyByte_first hc hb).trans (resolveTelegram_reply_pos hp hsize)
  by_cases hthird : ∃ e, got = [0x68#8, e]
  · obtain ⟨e, rfl⟩ := hthird
    have hsize : telegramSize [0x68#8, e, b] ≠ 0 :=
      ((telegramSize_sd2 e b []).trans (telegramSize_sd2 e b todo).symm).trans_ne hvalid
    exact (replyByte_third hc (memReadRange_succ_ok_iff.1 hread).1 hread).trans (resolveTelegram_reply_pos hp hsize)
  have h1 : got = [] → b = 0x68#8 := by simpa using hfirst
  have h3 : ∀ e, got ≠ [0x68#8, e] := not_exists.1 hthird
  have hother : replyByte b u = completeIfWhole u := by
    refine replyByte_other (fun hc1 => h1 (List.eq_nil_of_length_eq_zero (by omega))) fun hc3 => ?_
    obtain ⟨d, e, rfl⟩ := List.length_eq_two.1 (show got.length = 2 by omega)
    exact ⟨d, (memReadRange_succ_ok_iff.1 hread).1, fun hd => h3 e (hd ▸ rfl)⟩
  rw [hother, telegramSize_snoc h1 h3, ← hs]
  rfl

/-- A receive in progress: the bytes `got` of the reply are stored and counted, and their size is known (R116). -/
structure State.HoldsReply (s : State) (got : List Byte) : Prop where
  running : s.running
  receiving : s.phyState = .receivingSdr
  enabled : s.rxEn = true
  cursor : s.phyCursor = got.length
  size : s.phySize = telegramSize got
  bytes : memReadRange .txPkt 3 got.length s = .ok got

/-- The state with one more byte received, its event consumed. -/
def State.afterReceived (s : State) (got : List Byte) (b : Byte) (rest : List Byte) : State :=
  setPhySize (telegramSize (got ++ [b])) (setScript rest (s.afterReplyByte b))

theorem memReadRange_afterReplyByte {got : List Byte} (h : s.HoldsReply got) (hlen : got.length < 255) (b : Byte) :
    memReadRange .txPkt 3 (got.length + 1) (s.afterReplyByte b) = .ok (got ++ [b]) := by
  have hold : memReadRange .txPkt 3 got.length (s.afterReplyByte b) = .ok got := by
    refine (memReadRange_congr fun j _ hj => ?_).trans h.bytes
    exact Memory.read_write_other _ b (by rw [h.cursor]; omega)
  have hnew : memRead .txPkt (3 + got.length) (s.afterReplyByte b) = .ok b :=
    h.cursor ▸ memRead_afterReplyByte_same b (h.cursor ▸ hlen)
  exact (memReadRange_append (ys := [b])).2 ⟨hold, memReadRange_succ_ok_iff.2 ⟨hnew, rfl⟩⟩

theorem State.HoldsReply.snoc {got rest : List Byte} {b : Byte} (h : s.HoldsReply got) (hlen : got.length < 255) :
    (s.afterReceived got b rest).HoldsReply (got ++ [b]) where
  running := h.running
  receiving := h.receiving
  enabled := h.enabled
  cursor := by rw [List.length_append]; exact congrArg (· + 1) h.cursor
  size := rfl
  bytes := by
    rw [List.length_append]
    exact (memReadRange_of_buf_eq (s.afterReplyByte b) (s.afterReceived got b rest) rfl _ _).trans
      (memReadRange_afterReplyByte h hlen b)

theorem rxcHandler_of_valid {got todo rest : List Byte} {b : Byte} (h : s.HoldsReply got) (hlen : got.length < 255)
    (hvalid : telegramSize (got ++ b :: todo) ≠ 0) :
    rxcHandler b (setScript rest s) = completeIfWhole (s.afterReceived got b rest) := by
  have hcell : 3 + s.phyCursor < pktMax := by rw [h.cursor]; unfold pktMax; omega
  have hread : memReadRange .txPkt 3 (got.length + 1) (setScript rest (s.afterReplyByte b)) = .ok (got ++ [b]) :=
    (memReadRange_of_buf_eq (s.afterReplyByte b) (setScript rest (s.afterReplyByte b)) rfl _ _).trans
      (memReadRange_afterReplyByte h hlen b)
  rw [rxcHandler_run (s := setScript rest s) h.receiving hcell]
  exact replyByte_of_valid (u := setScript rest (s.afterReplyByte b)) h.receiving (congrArg (· + 1) h.cursor) h.size
    hread hvalid

/-- A byte before the last leaves the receive going on (R116). -/
theorem step_reply_partial {got todo rest : List Byte} {b : Byte} (h : s.HoldsReply got) (hlen : got.length < 255)
    (hscript : s.script = 0x03#8 :: b :: rest) (hvalid : telegramSize (got ++ b :: todo) ≠ 0)
    (hshort : telegramSize (got ++ b :: todo) ≠ got.length + 1) : step s = .next (s.afterReceived got b rest) := by
  refine step_rxc h.running hscript h.enabled ((rxcHandler_of_valid h hlen hvalid).trans (completeIfWhole_partial ?_))
  refine (telegramSize_prefix (got ++ [b]) todo).imp id fun hsize hwhole => hshort ?_
  have hcount : got.length + 1 = telegramSize (got ++ [b]) := h.cursor ▸ hwhole
  rw [hcount, hsize, List.append_assoc, List.singleton_append]

/-- The byte that completes the reply ends the receive and queues the reply (R116, R117). -/
theorem step_reply_last {got rest : List Byte} {b : Byte} (h : s.HoldsReply got)
    (hscript : s.script = 0x03#8 :: b :: rest) (hwhole : telegramSize (got ++ [b]) = got.length + 1) :
    step s = .next ((endReceive (s.afterReceived got b rest)).withSrdReply (got ++ [b])) := by
  have hlen : got.length < 255 := by
    have hmax := telegramSize_le (got ++ [b])
    omega
  have hvalid : telegramSize (got ++ [b]) ≠ 0 := hwhole ▸ Nat.succ_ne_zero _
  have hnext := h.snoc (b := b) (rest := rest) hlen
  refine step_rxc h.running hscript h.enabled ((rxcHandler_of_valid h hlen hvalid).trans ?_)
  rw [completeIfWhole_whole hvalid ((congrArg (· + 1) h.cursor).trans hwhole.symm)]
  exact execFinish_complete_of_reply hnext.cursor hnext.bytes

/-! ## The whole reply -/

/-- Up to a byte of a whole telegram, the receive has gone on with the bytes before it, and no packet was queued. -/
theorem runSteps_reply_partial {got todo rest : List Byte} {b : Byte} (h : s.HoldsReply [])
    (hwhole : telegramSize (got ++ b :: todo) = (got ++ b :: todo).length)
    (hscript : s.script = replyScript (got ++ b :: todo) ++ rest) :
    ∃ t, runSteps got.length s = .next t ∧ t.HoldsReply got ∧ t.script = replyScript (b :: todo) ++ rest ∧
      t.signal = s.signal ∧ t.txLen = s.txLen := by
  induction got using List.reverseRecOn generalizing b todo with
  | nil => exact ⟨s, rfl, h, hscript, rfl, rfl⟩
  | append_singleton got c ih =>
    rw [List.append_assoc, List.singleton_append] at hwhole hscript
    obtain ⟨t, hrun, hholds, htscript, hsignal, hlen⟩ := ih hwhole hscript
    have hmax := telegramSize_le (got ++ c :: b :: todo)
    have hcount : (got ++ c :: b :: todo).length = got.length + todo.length + 2 := by
      simp only [List.length_append, List.length_cons]; omega
    have hstep := step_reply_partial (todo := b :: todo) hholds (by omega) htscript (by omega) (by omega)
    rw [List.length_append]
    exact ⟨_, runSteps_snoc hrun hstep, hholds.snoc (by omega), rfl, hsignal, hlen⟩

/-- A queued SRD reply reads back as its header and the received bytes (R88, R173). -/
theorem memReadRange_withSrdReply {reply : List Byte} (h : memReadRange .txPkt 3 reply.length s = .ok reply) :
    memReadRange .txPkt 0 (3 + reply.length) (s.withSrdReply reply) =
      .ok ([0x04#8, BitVec.ofNat 8 reply.length, fcs 0x04#8 (BitVec.ofNat 8 reply.length) reply] ++ reply) := by
  have hcell : ∀ {i : Nat} {v : Byte}, (s.withSrdReply reply).txPkt.read i = some v → i < 3 →
      memRead .txPkt i (s.withSrdReply reply) = .ok v := fun hv hi =>
    memRead_of_read (b := .txPkt) hv (Nat.lt_trans hi (by decide))
  have hcmd := hcell (withReply_read s _ _ _ _ 0) (by decide)
  have hsize := hcell (withReply_read s _ _ _ _ 1) (by decide)
  have hcs := hcell (withReply_read s _ _ _ _ 2) (by decide)
  have hheader : memReadRange .txPkt 0 3 (s.withSrdReply reply) = .ok
      [0x04#8, BitVec.ofNat 8 reply.length, fcs 0x04#8 (BitVec.ofNat 8 reply.length) reply] := by
    simp only [memReadRange, hcmd, hsize, hcs]
  have hpayload : memReadRange .txPkt 3 reply.length (s.withSrdReply reply) = .ok reply :=
    (memReadRange_congr (b := .txPkt) fun j hj _ => withReply_read_payload _ _ _ _ hj).trans h
  exact (memReadRange_append (i := 0) (xs := [_, _, _])).2 ⟨hheader, hpayload⟩

/-- Settles O59: the bytes before the last one by one, then the last. -/
theorem replyIsReceivedWhole : Obligations.ReplyIsReceivedWhole := by
  intro s bs rest hr hp hen hc hs hne hwhole hscript
  have hstart : s.HoldsReply [] := ⟨hr, hp, hen, hc, hs, rfl⟩
  refine ⟨fun m hm => ?before, ?whole⟩
  case before =>
    have hsplit : bs.take m ++ bs[m] :: bs.drop (m + 1) = bs := by
      rw [← List.drop_eq_getElem_cons hm, List.take_append_drop]
    obtain ⟨t, hrun, hholds, -, hsignal, hlen⟩ := runSteps_reply_partial (got := bs.take m) (b := bs[m])
      (todo := bs.drop (m + 1)) hstart (by rw [hsplit, hwhole]) (by rw [hsplit, hscript])
    have htake : (bs.take m).length = m := List.length_take_of_le (Nat.le_of_lt hm)
    exact ⟨t, htake ▸ hrun, hholds.receiving, hsignal, hlen, hholds.cursor.trans htake⟩
  case whole =>
    obtain ⟨got, b, rfl⟩ := (List.eq_nil_or_concat' bs).resolve_left hne
    obtain ⟨t, hrun, hholds, htscript, -, -⟩ := runSteps_reply_partial hstart hwhole hscript
    have hsize : telegramSize (got ++ [b]) = got.length + 1 := hwhole.trans List.length_append
    have hlen : got.length < 255 := by
      have hmax := telegramSize_le (got ++ [b])
      omega
    have hnext : (t.afterReceived got b rest).HoldsReply (got ++ [b]) := hholds.snoc hlen
    have hlast : runSteps (got ++ [b]).length s =
        .next ((endReceive (t.afterReceived got b rest)).withSrdReply (got ++ [b])) := by
      rw [List.length_append]
      exact runSteps_snoc hrun (step_reply_last hholds htscript hsize)
    exact ⟨_, hlast, rfl, rfl, hnext.cursor, hwhole, rfl, rfl, rfl, rfl,
      memReadRange_withSrdReply ((memReadRange_endReceive _ _ _).trans hnext.bytes)⟩

end Sys2Proof.Machine
end

section
/-! The drain of the queued packet, case by case (R141). -/

namespace Sys2Proof.Machine

variable {s : State}

theorem drainByte_of_written {v : Byte} (hlt : s.txCursor < s.txLen) (hv : memRead .txPkt s.txCursor s = .ok v) :
    drainByte s = .ok (v, markDrained s) := by
  unfold drainByte
  rw [if_pos hlt, hv]

theorem drainByte_exhausted (h : s.txLen ≤ s.txCursor) : drainByte s = .ok (0x00#8, s) := if_neg (Nat.not_lt.2 h)

theorem drainByte_of_unwritten (hlt : s.txCursor < s.txLen) (hmax : s.txCursor < pktMax)
    (h : s.txPkt.read s.txCursor = none) : drainByte s = .error (.unwrittenRead .txPkt s.txCursor) := by
  unfold drainByte
  rw [if_pos hlt, memRead_of_unwritten (b := .txPkt) h hmax]

/-- As an instruction a drain leaves the state it hands on beside its byte (log 13). -/
theorem execDrain_of_ok {v : Byte} {u : State} (h : drainByte s = .ok (v, u)) : execDrain s = .next u :=
  withValue_eq_next.2 ⟨(v, u), h, rfl⟩

/-- Settles O51: a written byte, an exhausted packet, an unwritten byte. -/
theorem drainGivesNextByte : Obligations.DrainGivesNextByte := by
  refine fun s => ⟨fun v hlt hmax hv => ?written, fun h => ?exhausted, fun hlt hmax h => ?unwritten⟩
  case written =>
    have hdrain := drainByte_of_written hlt (memRead_of_read (b := .txPkt) hv hmax)
    exact ⟨hdrain, execDrain_of_ok hdrain⟩
  case exhausted => exact ⟨drainByte_exhausted h, execDrain_of_ok (drainByte_exhausted h)⟩
  case unwritten => exact withValue_eq_fault.2 (.inl (drainByte_of_unwritten hlt hmax h))

end Sys2Proof.Machine
end

section
/-! An SPI tick whose byte from the host is dropped: it only drains (R143, R144). -/

namespace Sys2Proof.Machine

variable {s t : State}

/-- Settles O33: the link is still blocked after the drain. -/
theorem blockedLinkDropsByte : Obligations.BlockedLinkDropsByte := fun s _ v hr hb hv hc =>
  (execSpiXfer_run hr hv hc).trans (receive_dropped (.inl ((afterDrain_blocked s v).trans hb)))

/-- Settles O34: the assembler is still at a packet boundary after the drain. -/
theorem leadingNopIsDiscarded : Obligations.LeadingNopIsDiscarded := fun s v hr h0 hv hc =>
  (execSpiXfer_run hr hv hc).trans (receive_dropped (.inr ⟨(afterDrain_rxCursor s v).trans h0, rfl⟩))

/-- While blocked, a tick that answers logged its byte, with or without a drain before (R141, R143). -/
theorem exec_spiXfer_blocked_eq_next {b : Byte} (hb : s.blocked = true) (h : exec (.spiXfer b) s = .next t) :
    ∃ v, t = logHostByte v s ∨ t = logHostByte v (markDrained s) := by
  obtain ⟨-, v, u, hdrain, hreceive⟩ := execSpiXfer_eq_next h
  rcases drainByte_cases s with ⟨-, he⟩ | ⟨_, -, -, he⟩ | ⟨_, -, -, he⟩ <;> cases he.symm.trans hdrain
  · cases (receive_dropped (s := logHostByte _ s) (.inl hb)).symm.trans hreceive
    exact ⟨_, .inl rfl⟩
  · cases (receive_dropped (s := logHostByte v (markDrained s)) (.inl hb)).symm.trans hreceive
    exact ⟨v, .inr rfl⟩

/-- Settles O53: neither the log nor the drain touches the fields of a send. -/
theorem hostCannotTouchSend : Obligations.HostCannotTouchSend := by
  intro s t b hb h
  obtain ⟨v, rfl | rfl⟩ := exec_spiXfer_blocked_eq_next hb h
  all_goals exact ⟨fun _ => rfl, fun _ => rfl, rfl, rfl, hb, rfl, rfl, rfl, rfl, rfl, rfl, rfl, rfl, rfl, rfl, rfl,
    rfl, rfl, rfl⟩

end Sys2Proof.Machine
end

section
/-! An SPI tick whose byte from the host is stored: stages 3 to 5 of the assembler (R145 to R147). -/

namespace Sys2Proof.Machine

variable {s u : State} {b v : Byte}

/-! ## Stages 4 and 5 -/

theorem headerComplete_of_ne (h : u.rxCursor ≠ 3) : headerComplete u = .ok u := if_neg h

theorem headerComplete_third {size : Byte} (h : u.rxCursor = 3) (hsize : u.rxPkt.read 1 = some size) :
    headerComplete u = .ok (setRxExpected (3 + size.toNat) u) := by
  unfold headerComplete hdrLen
  rw [if_pos h, memRead_of_read (b := .rxPkt) hsize (by decide)]

theorem packetComplete_short (h : ¬ (3 ≤ u.rxCursor ∧ u.rxCursor = u.rxExpected)) : packetComplete u = .next u :=
  if_neg h

theorem packetComplete_whole (h3 : 3 ≤ u.rxCursor) (he : u.rxCursor = u.rxExpected) :
    packetComplete u = andThen (execHandlePacket u) fun t => .next (setRxExpected 0 (setRxCursor 0 t)) :=
  if_pos ⟨h3, he⟩

/-! ## The tick -/

/-- A tick in `s` that hands out `v` and stores `b`: the link is not blocked and `b` is no leading no-op. -/
structure State.StoresByte (s : State) (b v : Byte) : Prop where
  running : s.running
  unblocked : s.blocked = false
  byteOut : s.byteOut = some v
  outCell : s.txCursor < s.txLen → s.txCursor < pktMax
  inCell : s.rxCursor < pktMax
  notNop : s.rxCursor = 0 → b ≠ 0x00#8

/-- The state after stage 3 of a tick: `v` was handed out, `b` stored and counted (R141, R145). -/
abbrev State.afterTickByte (s : State) (b v : Byte) : State :=
  { s.afterDrain v with rxPkt := s.rxPkt.write s.rxCursor b, rxCursor := s.rxCursor + 1 }

theorem afterByte_afterDrain : (s.afterDrain v).afterByte b = s.afterTickByte b v := by
  simp only [setRxCursor, State.setCell, afterDrain_rxPkt, afterDrain_rxCursor]

/-- The stored byte goes on through stages 4 and 5. -/
theorem State.StoresByte.exec_eq (h : s.StoresByte b v) :
    exec (.spiXfer b) s = withValue (headerComplete (s.afterTickByte b v)) packetComplete := by
  have hcur := afterDrain_rxCursor s v
  have hstored := receive_stored (s := s.afterDrain v) ((afterDrain_blocked s v).trans h.unblocked)
    (fun h0 => h.notNop (hcur.symm.trans h0)) (hcur.symm ▸ h.inCell)
  exact (execSpiXfer_run h.running h.byteOut h.outCell).trans
    (hstored.trans (congrArg (fun u => withValue (headerComplete u) packetComplete) afterByte_afterDrain))

/-- A byte that is not the header's last goes to stage 5 as it was stored. -/
theorem State.StoresByte.exec_of_ne (h : s.StoresByte b v) (h2 : s.rxCursor ≠ 2) :
    exec (.spiXfer b) s = packetComplete (s.afterTickByte b v) := by
  rw [h.exec_eq, headerComplete_of_ne fun h3 => h2 (Nat.succ.inj h3), withValue_ok]

/-- The header's last byte fixes the packet's length before stage 5 (R146). -/
theorem State.StoresByte.exec_third {size : Byte} (h : s.StoresByte b v) (h2 : s.rxCursor = 2)
    (hsize : s.rxPkt.read 1 = some size) :
    exec (.spiXfer b) s = packetComplete { s.afterDrain v with
      rxPkt := s.rxPkt.write 2 b, rxCursor := 3, rxExpected := 3 + size.toNat } := by
  have hread : (s.afterTickByte b v).rxPkt.read 1 = some size :=
    (Memory.read_write_other _ b (by omega)).trans hsize
  rw [h.exec_eq, headerComplete_third (congrArg (· + 1) h2) hread, withValue_ok]
  simp only [setRxExpected, h2]

/-- Settles O35: by whether the byte is the header's last; either way the packet is still short. -/
theorem spiByteIsStored : Obligations.SpiByteIsStored := by
  intro s b v hr hb hv hout hin hnop
  have h : s.StoresByte b v := ⟨hr, hb, hv, hout, hin, hnop⟩
  refine ⟨fun h2 hshort => ?other, fun size h2 hsize hpos => ?third⟩
  case other =>
    refine (h.exec_of_ne h2).trans (packetComplete_short ?_)
    rintro ⟨h3, he⟩
    have h3 : 3 ≤ s.rxCursor + 1 := h3
    have he : s.rxCursor + 1 = s.rxExpected := he.trans (afterDrain_rxExpected s v)
    omega
  case third =>
    refine (h.exec_third h2 hsize).trans (packetComplete_short ?_)
    rintro ⟨-, he⟩
    have he : 3 = 3 + size.toNat := he
    exact hpos (BitVec.eq_of_toNat_eq (show size.toNat = 0 by omega))

/-- Settles O36: with the packet whole in `u`, stage 5 runs `handle_packet` there and hands its next state or its fault
on. -/
theorem lastByteRunsPacket : Obligations.LastByteRunsPacket := by
  intro s u b v hr hb hv hout hin hu
  have h : s.StoresByte b v := ⟨hr, hb, hv, hout, hin, fun h0 => by omega⟩
  have hexec : exec (.spiXfer b) s =
      andThen (execHandlePacket u) fun t => .next (setRxExpected 0 (setRxCursor 0 t)) := by
    rcases hu with ⟨h2, hsize, rfl⟩ | ⟨h3, he, rfl⟩
    · exact (h.exec_third h2 hsize).trans (packetComplete_whole (Nat.le_refl 3) rfl)
    · have hlen : s.rxCursor + 1 = (s.afterDrain v).rxExpected := he.trans (afterDrain_rxExpected s v).symm
      exact (h.exec_of_ne (by omega)).trans (packetComplete_whole (Nat.le_succ_of_le h3) hlen)
  exact ⟨fun t ht => hexec.trans (andThen_eq_next.2 ⟨t, ht, rfl⟩),
    fun r hfault => hexec.trans (andThen_eq_fault.2 (.inl hfault))⟩

end Sys2Proof.Machine
end

section
/-! What a packet whose bytes are written is answered with (R148, R165 to R169). -/

namespace Sys2Proof.Machine

/-- Settles O37: the validation is one test, and the dispatch runs the decoded command. -/
theorem packetValidation : Obligations.PacketValidation := by
  intro s cmd size cs payload h0 h1 h2 hp
  have heq := execHandlePacket_eq h0 h1 h2 hp
  exact ⟨fun hbad => heq.trans (if_pos hbad),
    fun hgood => heq.trans ((if_neg hgood).trans (dispatch_eq_exec_decodeCommand cmd s))⟩

/-- The three informational commands do nothing (R165, R167, R168). -/
theorem exec_decodeCommand_of_informational {cmd : Byte} (h : cmd = 0x04#8 ∨ cmd = 0x06#8 ∨ cmd = 0x07#8)
    (s : State) : exec (decodeCommand cmd) s = .next s := by
  rcases h with rfl | rfl | rfl
  all_goals rfl

/-- Settles O38: the validation queues NACK or runs the command, and the command is a no-op or a NACK. -/
theorem handledPacketAnswers : Obligations.HandledPacketAnswers := by
  intro s cmd size cs payload h0 h1 h2 hp
  obtain ⟨mismatch, valid⟩ := packetValidation s cmd size cs payload h0 h1 h2 hp
  have runs : cs = fcs cmd size payload → exec .handlePacket s = exec (decodeCommand cmd) s :=
    fun hcs => valid fun hbad => hbad.2 hcs
  exact ⟨fun hcmd hcs => mismatch ⟨hcmd, hcs⟩,
    fun hcs hinfo => (runs hcs).trans (exec_decodeCommand_of_informational hinfo s),
    fun hcs hres => (runs hcs).trans (exec_decodeCommand_of_reserved hres s)⟩

end Sys2Proof.Machine
end

section
/-! A host that polls with 0x00, from the first byte of the queued packet to its last (R141, R144, R239). -/

namespace Sys2Proof.Machine

variable {s : State}

/-- At a packet boundary of the assembler, the bytes `bs` of the queued packet are left to drain. -/
structure State.OffersNext (s : State) (bs : List Byte) : Prop where
  running : s.running
  boundary : s.rxCursor = 0
  left : s.txLen = s.txCursor + bs.length
  bytes : memReadRange .txPkt s.txCursor bs.length s = .ok bs

/-- The state after one poll drained `b`, its event consumed. -/
def State.afterPoll (s : State) (b : Byte) (rest : List Byte) : State :=
  setScript rest (logHostByte b (markDrained s))

/-- A poll hands over the next byte and changes nothing else (R141, R144). -/
theorem step_poll {b : Byte} {bs rest : List Byte} (h : s.OffersNext (b :: bs))
    (hscript : s.script = 0x00#8 :: 0x00#8 :: rest) : step s = .next (s.afterPoll b rest) := by
  obtain ⟨hread, -⟩ := memReadRange_succ_ok_iff.1 h.bytes
  obtain ⟨hmax, hcell⟩ := memRead_ok_iff.1 hread
  have hlt : s.txCursor < s.txLen := h.left ▸ Nat.lt_add_of_pos_right (Nat.succ_pos _)
  have hout : (setScript rest s).byteOut = some b := (if_pos hlt).trans hcell
  have hdrained : (setScript rest s).afterDrain b = s.afterPoll b rest := if_pos hlt
  exact step_of_event h.running (hscript ▸ rfl)
    (hdrained ▸ leadingNopIsDiscarded (setScript rest s) b h.running h.boundary hout fun _ => hmax)

theorem State.OffersNext.tail {b : Byte} {bs rest : List Byte} (h : s.OffersNext (b :: bs)) :
    (s.afterPoll b rest).OffersNext bs where
  running := h.running
  boundary := h.boundary
  left := by
    show s.txLen = s.txCursor + 1 + bs.length
    rw [h.left, List.length_cons]
    omega
  bytes := (memReadRange_of_buf_eq s (s.afterPoll b rest) rfl _ _).trans (memReadRange_succ_ok_iff.1 h.bytes).2

/-- The state once the host has all of the packet: the data-ready line is dropped (R141). -/
def State.afterPolls (s : State) (bs script : List Byte) : State :=
  { s with txCursor := s.txLen, signal := false, hostLog := s.hostLog ++ bs, script := script }

theorem afterPoll_last {b : Byte} {rest : List Byte} (h : s.OffersNext [b]) :
    s.afterPoll b rest = s.afterPolls [b] rest := by
  have hlast : s.txCursor + 1 = s.txLen := h.left.symm
  simp only [State.afterPoll, State.afterPolls, setScript, logHostByte, markDrained, hlast, if_true]

theorem afterPolls_afterPoll (b : Byte) (bs rest script : List Byte) :
    (s.afterPoll b rest).afterPolls bs script = s.afterPolls (b :: bs) script := by
  simp only [State.afterPolls, State.afterPoll, setScript, logHostByte, markDrained, List.append_assoc,
    List.singleton_append]

/-- One poll a byte drains the packet in order (R239). -/
theorem runSteps_polls {b : Byte} {bs rest : List Byte} (h : s.OffersNext (b :: bs))
    (hscript : s.script = spiScript (List.replicate (bs.length + 1) 0x00#8) ++ rest) :
    runSteps (bs.length + 1) s = .next (s.afterPolls (b :: bs) rest) := by
  induction bs generalizing s b with
  | nil => exact runSteps_succ_eq_next.2 ⟨_, step_poll h hscript, congrArg _ (afterPoll_last h)⟩
  | cons b' bs ih =>
    have hrest := ih (s := s.afterPoll b (spiScript (List.replicate (bs.length + 1) 0x00#8) ++ rest)) h.tail rfl
    rw [afterPolls_afterPoll] at hrest
    exact runSteps_succ_eq_next.2 ⟨_, step_poll h hscript, hrest⟩

/-- Settles O60: the polls start at the packet's first byte. -/
theorem pollingDrainsPacket : Obligations.PollingDrainsPacket := by
  intro s bs rest hr hboundary hne hcur hlen hread hscript
  obtain ⟨b, bs, rfl⟩ := List.exists_cons_of_ne_nil hne
  have hoffers : s.OffersNext (b :: bs) := {
    running := hr
    boundary := hboundary
    left := by rw [hlen, hcur, Nat.zero_add]
    bytes := by rw [hcur]; exact hread }
  refine (runSteps_polls hoffers hscript).trans ?_
  rw [State.afterPolls, hlen]

end Sys2Proof.Machine
end

section
/-! The host's commands (R160 to R169): the dispatch, the commands that read no packet byte, and the two resets. -/

namespace Sys2Proof.Machine

/-- Settles O4: by the command byte, the eight commands of their own and the reserved rest. -/
theorem dispatchRunsDecodedCommand : Obligations.DispatchRunsDecodedCommand := dispatch_eq_exec_decodeCommand

/-- Settles O12: each of the four answers the state it was given. -/
theorem informationalCommandsChangeNothing : Obligations.InformationalCommandsChangeNothing :=
  fun _ => ⟨rfl, rfl, rfl, rfl⟩

/-- Settles O13: ACK is queued over the state both resets leave, with an empty packet buffer. -/
theorem resetCommandResult : Obligations.ResetCommandResult := execReset_eq

/-- Settles O21: the five reserved ranges queue the same reply. -/
theorem reservedCodesQueueNack : Obligations.ReservedCodesQueueNack := by
  intro s
  have nack : execQueueReply .nack s = .next s.withNack := execQueueReply_nack s
  exact ⟨fun _ => nack, fun _ => nack, fun _ => nack, fun _ => nack, fun _ => nack⟩

/-- Settles O49: an emptied buffer has every cell unwritten. -/
theorem hostlinkResetClearsLink : Obligations.HostlinkResetClearsLink :=
  fun s => ⟨hostlinkReset s, rfl, Memory.read_nil, Memory.read_nil, rfl⟩

end Sys2Proof.Machine
end

section
/-! SET_CONFIG over a written record: its size, its baud enum, its timeout (R85, R163). -/

namespace Sys2Proof.Machine

variable {s : State}

/-! ## The baud enum of a byte -/

theorem baudOfByte_of_lt {b : Byte} (h : b.toNat < 10) : baudOfByte b = some ⟨b.toNat, h⟩ := dif_pos h

theorem baudOfByte_of_eq {b : Byte} {be : BaudEnum} (h : b.toNat = be.val) : baudOfByte b = some be :=
  (baudOfByte_of_lt (h ▸ be.isLt)).trans (congrArg some (Fin.ext h))

theorem baudOfByte_of_gt {b : Byte} (h : 9 < b.toNat) : baudOfByte b = none := dif_neg (Nat.not_lt.2 h)

/-! ## The command -/

/-- The end of an accepted set-config whose timeout byte is written. -/
theorem acceptConfig_of_read {ms : Byte} (h : s.rxPkt.read 4 = some ms) :
    acceptConfig s = .next (setTimeout ms s).withAck := by
  rw [acceptConfig, memRead_of_read (b := .rxPkt) h (by decide), withValue_ok, execQueueReply_ack]

/-- A payload shorter than the record is rejected before the record is read. -/
theorem execSetConfig_short {size : Byte} (h1 : s.rxPkt.read 1 = some size) (hs : size.toNat < 3) :
    execSetConfig s = .next s.withNack := by
  rw [execSetConfig, memRead_of_read (b := .rxPkt) h1 (by decide), withValue_ok, configLen, if_pos hs,
    execQueueReply_nack]

/-- A record long enough: the current baud enum is accepted as it is, another byte by whether it is a baud enum. -/
theorem execSetConfig_of_record {size b : Byte} (h1 : s.rxPkt.read 1 = some size) (hs : 3 ≤ size.toNat)
    (h3 : s.rxPkt.read 3 = some b) :
    execSetConfig s =
      if b.toNat = s.baud.val then acceptConfig s
      else (baudOfByte b).elim (.next s.withNack) fun be => acceptConfig (setBaud be (phyReset s)) := by
  rw [execSetConfig, memRead_of_read (b := .rxPkt) h1 (by decide), withValue_ok, configLen, if_neg (Nat.not_lt.2 hs),
    memRead_of_read (b := .rxPkt) h3 (by decide), withValue_ok]
  cases baudOfByte b <;> rfl

/-- Settles O14: a short record, and one whose baud byte is neither the current enum nor any other. -/
theorem setConfigRejections : Obligations.SetConfigRejections := by
  refine fun s size h1 => ⟨execSetConfig_short h1, fun b hs h3 hb => ?_⟩
  have hother : b.toNat ≠ s.baud.val := by
    have hbaud : s.baud.val < 10 := s.baud.isLt
    omega
  refine (execSetConfig_of_record h1 hs h3).trans ?_
  rw [if_neg hother, baudOfByte_of_gt hb, Option.elim_none]

/-- Settles O15: the current enum goes straight to the accepting end. -/
theorem setConfigWithCurrentBaud : Obligations.SetConfigWithCurrentBaud := fun _ _ _ _ h1 hs h3 h4 hb =>
  (execSetConfig_of_record h1 hs h3).trans ((if_pos hb).trans (acceptConfig_of_read h4))

/-- Settles O16: another enum goes to the accepting end of the re-initialised PHY. -/
theorem setConfigWithNewBaud : Obligations.SetConfigWithNewBaud := by
  intro s size b ms be h1 hs h3 h4 hb hne
  have hother : b.toNat ≠ s.baud.val := fun h => hne (Fin.ext (hb.symm.trans h))
  refine (execSetConfig_of_record h1 hs h3).trans ?_
  rw [if_neg hother, baudOfByte_of_eq hb, Option.elim_some]
  exact acceptConfig_of_read (s := setBaud be (phyReset s)) h4

end Sys2Proof.Machine
end

section
/-! The host's PROFIBUS requests: what the link makes of each result of PhyLink (R164, R166). -/

namespace Sys2Proof.Machine

variable {s : State}

/-- An accepted request blocks the link and queues nothing. -/
theorem startRequest_of_ok {k : SendKind} {u : State} (h : request k s = .ok (.ok, u)) :
    startRequest k s = .next (setBlocked true u) := by
  rw [startRequest, h, withValue_ok]

/-- A request PhyLink turns down, for either reason, is answered with NACK. -/
theorem startRequest_of_rejected {k : SendKind} {result : EntryResult} (h : request k s = .ok (result, s))
    (hr : result ≠ .ok) : startRequest k s = .next s.withNack := by
  rw [startRequest, h, withValue_ok]
  cases result with
  | ok => exact absurd rfl hr
  | busy => exact execQueueReply_nack s
  | invalidArgument => exact execQueueReply_nack s

theorem startRequest_busy (k : SendKind) (hp : s.phyState ≠ .idle) : startRequest k s = .next s.withNack :=
  startRequest_of_rejected (request_busy k hp) (by decide)

theorem startRequest_invalid (k : SendKind) (hp : s.phyState = .idle) (h : outgoingSize s = .ok 0) :
    startRequest k s = .next s.withNack :=
  startRequest_of_rejected (request_of_outgoingSize k hp h) (by decide)

theorem startRequest_accepted {n : Nat} (k : SendKind) (hp : s.phyState = .idle) (h : outgoingSize s = .ok n)
    (hn : n ≠ 0) : startRequest k s = .next (setBlocked true (installTransfer k n s)) :=
  startRequest_of_ok ((request_of_outgoingSize k hp h).trans (by rw [if_neg hn]))

/-- Settles O17: the transfer with a reply buffer is installed and the link blocked. -/
theorem srdRequestAccepted : Obligations.SrdRequestAccepted := fun _ _ _ hp hsd ht hn =>
  startRequest_accepted .sdr hp (outgoingSize_of_reads hsd ht) hn

/-- Settles O18: the transfer without a reply buffer is installed and the link blocked. -/
theorem sdnRequestAccepted : Obligations.SdnRequestAccepted := fun _ _ _ hp hsd ht hn =>
  startRequest_accepted .sdn hp (outgoingSize_of_reads hsd ht) hn

/-- Settles O19: busy is tested before the telegram is read, and a telegram of size 0 is invalid. -/
theorem requestRejections : Obligations.RequestRejections := by
  refine fun s => ⟨fun hp => ⟨startRequest_busy .sdr hp, startRequest_busy .sdn hp⟩, fun sd t hp hsd ht h0 => ?_⟩
  have hsize : outgoingSize s = .ok 0 := h0 ▸ outgoingSize_of_reads hsd ht
  exact ⟨startRequest_invalid .sdr hp hsize, startRequest_invalid .sdn hp hsize⟩

end Sys2Proof.Machine
end

section
/-! The replies: the packets `queue_reply` builds, and what every instruction that queues one leaves unchanged (R66,
R170 to R173, R190). -/

namespace Sys2Proof.Machine

variable {s t : State}

/-- Settles O45: the two fixed packets, and the SRD reply of the bytes that stand in `tx_pkt[3..]`. -/
theorem queueReplyBuildsPacket : Obligations.QueueReplyBuildsPacket := fun s =>
  ⟨execQueueReply_ack s, execQueueReply_nack s, fun _ h => execQueueReply_srdReply h⟩

/-- The three header cells of a queued packet read as built. -/
theorem withReply_header (s : State) (cmd size cs : Byte) (len : Nat) :
    (s.withReply cmd size cs len).txPkt.read 0 = some cmd ∧ (s.withReply cmd size cs len).txPkt.read 1 = some size ∧
      (s.withReply cmd size cs len).txPkt.read 2 = some cs :=
  ⟨withReply_read s cmd size cs len 0, withReply_read s cmd size cs len 1, withReply_read s cmd size cs len 2⟩

/-- What an instruction that queues a reply makes of `s`: `blocked` may be written, and a packet may be queued. -/
def AnswersHost (s t : State) : Prop :=
  ∃ b, t = setBlocked b s ∨ ∃ cmd size cs len, t = (setBlocked b s).withReply cmd size cs len

theorem answersHost_of_queueReply {kind : ReplyKind} (b : Bool)
    (h : execQueueReply kind (setBlocked b s) = .next t) : AnswersHost s t := by
  rcases execQueueReply_cases kind (setBlocked b s) with ⟨cmd, size, cs, len, he, -⟩ | ⟨_, _, _, -, he, -⟩
  · cases he.symm.trans h
    exact ⟨b, .inr ⟨cmd, size, cs, len, rfl⟩⟩
  · cases he.symm.trans h

/-- The instructions that queue a reply and do nothing else but write `blocked`: PhyLink's four events, `queue_reply`
and the reserved codes. -/
def IsReplyInstr (i : Instr) : Prop :=
  (∃ val, i = .sdnComplete val ∨ i = .sdrSent val ∨ i = .sdrComplete val ∨ i = .sdrError val) ∨
    (∃ kind, i = .queueReply kind) ∨
    (∃ low, i = .reserved08 low) ∨ (∃ low, i = .reserved10 low) ∨ (∃ low, i = .reserved20 low) ∨
    (∃ low, i = .reserved40 low) ∨ (∃ low, i = .reserved80 low)

theorem IsReplyInstr.answersHost {i : Instr} (hi : IsReplyInstr i) (h : exec i s = .next t) : AnswersHost s t := by
  rcases hi with ⟨n, rfl | rfl | rfl | rfl⟩ | ⟨kind, rfl⟩ | ⟨_, rfl⟩ | ⟨_, rfl⟩ | ⟨_, rfl⟩ | ⟨_, rfl⟩ | ⟨_, rfl⟩
  · exact answersHost_of_queueReply (kind := .ack) false h
  · cases h
    exact ⟨false, .inl rfl⟩
  · exact answersHost_of_queueReply (kind := .srdReply n) s.blocked h
  · exact answersHost_of_queueReply (kind := .nack) false h
  · exact answersHost_of_queueReply (kind := kind) s.blocked h
  all_goals exact answersHost_of_queueReply (kind := .nack) s.blocked h

theorem AnswersHost.read_payload (h : AnswersHost s t) {a : Nat} (ha : 3 ≤ a) : t.txPkt.read a = s.txPkt.read a := by
  obtain ⟨b, rfl | ⟨cmd, size, cs, len, rfl⟩⟩ := h
  · rfl
  · exact withReply_read_payload cmd size cs len ha

/-- All but `tx_pkt`, `blocked` and the drain's cursor, length and line stays. -/
theorem AnswersHost.eq_withReplyFields (h : AnswersHost s t) :
    t = { s with
      txPkt := t.txPkt, txCursor := t.txCursor, txLen := t.txLen, signal := t.signal, blocked := t.blocked } := by
  obtain ⟨b, rfl | ⟨cmd, size, cs, len, rfl⟩⟩ := h <;> rfl

/-- Settles O46: by the fields an answer writes, and by the header of the two fixed packets. -/
theorem repliesTouchOnlyHeader : Obligations.RepliesTouchOnlyHeader := by
  intro i s t hi h
  have hanswer : AnswersHost s t := IsReplyInstr.answersHost hi h
  rw [hanswer.eq_withReplyFields]
  refine ⟨fun _ => rfl, fun _ => hanswer.read_payload, rfl, rfl, rfl, rfl, rfl, rfl, rfl, rfl, rfl, rfl, rfl, rfl, rfl,
    rfl, rfl, rfl, rfl, rfl, rfl, rfl, ?ack, ?nack⟩
  all_goals
    rintro rfl
    cases h
    exact withReply_header s _ _ _ _

end Sys2Proof.Machine
end

section
/-! PhyLink's events: what the host link's callback makes of each (R190 to R194). -/

namespace Sys2Proof.Machine

variable {s : State}

/-- Settles O41: ACK is queued over the unblocked state. -/
theorem sdnCompleteQueuesAck : Obligations.SdnCompleteQueuesAck := fun s _ => execQueueReply_ack (setBlocked false s)

/-- Settles O44: NACK is queued over the unblocked state. -/
theorem sdrErrorQueuesNack : Obligations.SdrErrorQueuesNack := fun s _ => execQueueReply_nack (setBlocked false s)

/-- Settles O43: the event's count is the payload size of the SRD reply, whose bytes already stand in `tx_pkt[3..]`. -/
theorem sdrCompleteQueuesReply : Obligations.SdrCompleteQueuesReply := fun _ _ h => execQueueReply_srdReply h

/-- RESET leaves PhyLink idle and its receiver off. -/
theorem reset_endsReceive (s : State) : ∃ t, exec .reset s = .next t ∧ t.phyState = .idle ∧ t.rxEn = false :=
  ⟨_, resetCommandResult s, rfl, rfl⟩

/-- A set-config with another baud enum re-initialises the PHY: PhyLink is idle and its receiver off. -/
theorem setConfig_newBaud_endsReceive {size b ms : Byte} {be : BaudEnum} (h1 : s.rxPkt.read 1 = some size)
    (hs : 3 ≤ size.toNat) (h3 : s.rxPkt.read 3 = some b) (h4 : s.rxPkt.read 4 = some ms) (hb : b.toNat = be.val)
    (hne : be ≠ s.baud) : ∃ t, exec .setConfig s = .next t ∧ t.phyState = .idle ∧ t.rxEn = false :=
  ⟨_, setConfigWithNewBaud s size b ms be h1 hs h3 h4 hb hne, rfl, rfl⟩

/-- Settles O42: a receiving PhyLink is busy, so a request is turned down before its telegram is read; RESET and a new
baud enum reset the PHY. -/
theorem sdrSentClearsBlocked : Obligations.SdrSentClearsBlocked := by
  refine fun s _ => ⟨rfl, fun hp => ?_⟩
  have hbusy : s.phyState ≠ .idle := by simp [hp]
  obtain ⟨hsrd, hsdn⟩ := (requestRejections s).1 hbusy
  have hnack : exec (.queueReply .nack) s = .next s.withNack := execQueueReply_nack s
  exact ⟨hsrd.trans hnack.symm, hsdn.trans hnack.symm, reset_endsReceive s,
    fun _ _ _ _ h1 hs h3 h4 hb hne => setConfig_newBaud_endsReceive h1 hs h3 h4 hb hne⟩

end Sys2Proof.Machine
end

section
/-! A running machine with no event to run: nothing is coming, or what comes is no event (R94, R218). -/

namespace Sys2Proof.Machine

variable {s : State}

theorem fetchEvent_of_nil (hs : s.script = []) : fetchEvent s = .ok none := by
  simp only [fetchEvent, hs]

/-- Bytes that encode no event are not fetched (log 10). -/
theorem fetchEvent_of_decode_error {e : DecodeError} (hne : s.script ≠ [])
    (hd : decode .event s.script = .error e) : fetchEvent s = .error .undecodableEvent := by
  obtain ⟨c, cs, hs⟩ := List.exists_cons_of_ne_nil hne
  rw [hs] at hd
  simp only [fetchEvent, hs, hd]

/-- Settles O8: the step of a running machine is what the fetch makes of the script. -/
theorem idleStepChangesNothing : Obligations.IdleStepChangesNothing := by
  rintro s ⟨hfault, hbooted⟩
  refine ⟨fun hs => ?idle, fun e hne hd => ?undecodable⟩
  case idle => simp only [step, hfault, hbooted, fetchEvent_of_nil hs, if_true]
  case undecodable => simp only [step, hfault, hbooted, fetchEvent_of_decode_error hne hd, if_true]

end Sys2Proof.Machine
end

section
/-! The faults an answer leads to, and how sequencing and interrupts pass them on (R45, R203). -/

namespace Sys2Proof.Machine

variable {s : State} {P Q : Fault → Prop}

/-- Whatever fault the step answering `o` records meets `P`: a next state holds no fault, and a fault meets `P`. -/
def RecordsOnly (P : Fault → Prop) : Res → Prop
  | .next t => t.fault = none
  | .fault r => P r
  | .refused _ => True

theorem RecordsOnly.mono {o : Res} (h : RecordsOnly P o) (hPQ : ∀ r, P r → Q r) : RecordsOnly Q o :=
  match o, h with
  | .next _, h => h
  | .fault r, h => hPQ r h
  | .refused _, _ => trivial

theorem recordsOnly_andThen {o : Res} {k : State → Res} (ho : RecordsOnly P o)
    (hk : ∀ u, u.fault = none → RecordsOnly P (k u)) : RecordsOnly P (andThen o k) :=
  match o, ho with
  | .next u, hu => hk u hu
  | .fault _, hr => hr
  | .refused _, _ => trivial

/-- An event records what its handler does where the event is admitted. -/
theorem recordsOnly_takeInterrupt {a : State → Bool} {h : State → Res} (hf : s.fault = none)
    (hh : RecordsOnly P (h s)) : RecordsOnly P (takeInterrupt a h s) := by
  simp only [takeInterrupt, hf]
  split
  · exact hh
  · trivial

/-- A written cell inside the buffer reads without a fault. -/
theorem memRead_ne_error_of_isSome {b : Buf} {i : Nat} {r : Fault} (hi : i < pktMax)
    (hw : ((s.buf b).read i).isSome = true) : memRead b i s ≠ .error r := by
  obtain ⟨v, hv⟩ := Option.isSome_iff_exists.1 hw
  simp [memRead_of_read hv hi]

/-- `r` is the read of an unwritten byte of the outgoing telegram: the next byte of a send, or, in `Idle`, one of the
bytes that give a requested telegram's size (R91, R114). -/
def State.OutgoingRead (s : State) (r : Fault) : Prop :=
  ∃ i, r = .unwrittenRead .rxPkt i ∧ s.rxPkt.read i = none ∧
    ((s.phyState.sending = true ∧ s.phyCursor < s.phySize ∧ i = 3 + s.phyCursor) ∨
      (s.phyState = .idle ∧ 3 ≤ i ∧ i < 6))

end Sys2Proof.Machine
end

section
/-! The faults of the UART's events: UDRE's is the next byte of a send, the others have none (R114 to R118). -/

namespace Sys2Proof.Machine

variable {s : State} {P : Fault → Prop}

/-- The cursor of a send with bytes left stays inside the telegram, so only an unwritten cell faults. -/
theorem recordsOnly_udreHandler (h : s.Inv) (hf : s.fault = none) : RecordsOnly s.OutgoingRead (udreHandler s) := by
  by_cases hsend : s.phyState.sending = true ∧ s.phyCursor < s.phySize
  · obtain ⟨hs, hc⟩ := hsend
    have hmax : s.phyCursor < 255 := Nat.lt_of_lt_of_le hc h.cursor.1
    cases hread : s.rxPkt.read (3 + s.phyCursor) with
    | none => exact udreHandler_of_unwritten hs hc hmax hread ▸ ⟨_, rfl, hread, .inl ⟨hs, hc, rfl⟩⟩
    | some v =>
      have hcell : 3 + s.phyCursor < pktMax := by unfold pktMax; omega
      exact udreHandler_of_written hs hc (memRead_of_read (b := .rxPkt) hread hcell) ▸ hf
  · exact udreHandler_of_nothing hsend ▸ hf

theorem recordsOnly_txcHandler (hf : s.fault = none) : RecordsOnly P (txcHandler s) := by
  rcases txcHandler_cases s with he | he | he | he <;> exact he ▸ hf

theorem recordsOnly_shiftOne (hf : s.fault = none) : RecordsOnly P (shiftOne s) := by
  unfold shiftOne
  split <;> exact hf

/-! ## The receiver: the counted bytes of the reply are held -/

/-- A byte of the reply held reads without a fault. -/
theorem State.ReplyHeld.memRead_ne_error {m j : Nat} {r : Fault} (hm : s.ReplyHeld m) (h3 : 3 ≤ j) (hj : j < 3 + m) :
    memRead .txPkt j s ≠ .error r := by
  obtain ⟨hmax, hheld⟩ := hm
  obtain ⟨i, rfl⟩ := Nat.exists_eq_add_of_le h3
  exact memRead_ne_error_of_isSome (by unfold pktMax; omega) (hheld i (by omega))

/-- Either end of a receive: the reply queued is the one held (R117). -/
theorem recordsOnly_finish (hf : s.fault = none) (hm : s.ReplyHeld s.phyCursor) (ev : FinishEvent) :
    RecordsOnly P (execFinish ev s) := by
  cases ev with
  | error => exact execFinish_error s ▸ hf
  | complete =>
    rw [execFinish_complete]
    rcases execQueueReply_cases (.srdReply s.phyCursor) (endReceive s) with
      ⟨_, _, _, _, he, -⟩ | ⟨n, j, r, hn, -, h3, hj, hread⟩
    · exact he ▸ hf
    · cases hn
      have hend : (endReceive s).ReplyHeld s.phyCursor := hm
      exact absurd hread (hend.memRead_ne_error h3 hj)

theorem recordsOnly_completeIfWhole (hf : s.fault = none) (hm : s.ReplyHeld s.phyCursor) :
    RecordsOnly P (completeIfWhole s) := by
  rcases completeIfWhole_cases s with ⟨-, -, he⟩ | ⟨-, he⟩
  · exact he ▸ recordsOnly_finish hf hm .complete
  · exact he ▸ hf

theorem recordsOnly_resolveReply (hf : s.fault = none) (hm : s.ReplyHeld s.phyCursor) (n : Nat) :
    RecordsOnly P (resolveReply n s) := by
  have hends : ∀ ev, RecordsOnly P (execFinish ev (setPhySize n s)) := recordsOnly_finish (s := setPhySize n s) hf hm
  rcases resolveReply_cases n s with ⟨-, he⟩ | ⟨-, -, he⟩ | ⟨-, -, he⟩
  · exact he ▸ hends .error
  · exact he ▸ hends .complete
  · exact he ▸ hf

theorem recordsOnly_replyByte (hf : s.fault = none) (hp : s.phyState = .receivingSdr)
    (hm : s.ReplyHeld s.phyCursor) (b : Byte) : RecordsOnly P (replyByte b s) := by
  have hresolve : ∀ n, RecordsOnly P (resolveTelegram .reply n s) := fun n =>
    resolveTelegram_reply (n := n) hp ▸ recordsOnly_resolveReply hf hm n
  rcases replyByte_cases b s with ⟨-, -, he⟩ | ⟨t, -, -, -, he⟩ | ⟨j, r, hc, h3, hj, hread, -⟩ | ⟨-, -, he⟩
  · exact he ▸ hresolve _
  · exact he ▸ hresolve _
  · exact absurd hread (hm.memRead_ne_error h3 (by omega))
  · exact he ▸ recordsOnly_completeIfWhole hf hm

/-- A received byte finds its place behind the reply's bytes, inside the buffer (R116). -/
theorem recordsOnly_rxcHandler (h : s.Inv) (hf : s.fault = none) (b : Byte) : RecordsOnly P (rxcHandler b s) := by
  by_cases hp : s.phyState = .receivingSdr
  · have hc : s.phyCursor < 255 := by
      obtain ⟨hsize, -, -, hrecv⟩ := h.cursor
      rcases hrecv hp with ⟨-, hlt, -⟩ | hlt <;> omega
    rw [rxcHandler_run hp (by unfold pktMax; omega)]
    have hheld : (s.afterReplyByte b).ReplyHeld (s.phyCursor + 1) := replyHeld_storeReplyByte h.link b hp hc
    exact recordsOnly_replyByte (s := s.afterReplyByte b) hf hp hheld b
  · exact rxcHandler_dropped b hp ▸ hf

end Sys2Proof.Machine
end

section
/-! The faults of the host's commands, for a packet held whole: a request's, of its telegram (R148, R160 to R169). -/

namespace Sys2Proof.Machine

variable {s : State}

/-- The packet handled is written whole: `size` is its payload size (R81, R147). -/
def State.HoldsPacket (s : State) (size : Byte) : Prop :=
  s.rxPkt.read 1 = some size ∧ ∀ i, i < 3 + size.toNat → (s.rxPkt.read i).isSome = true

/-- A request reads its telegram's first bytes, and only in `Idle` (R110, R111). -/
theorem recordsOnly_startRequest (hf : s.fault = none) (k : SendKind) :
    RecordsOnly s.OutgoingRead (startRequest k s) := by
  unfold startRequest
  rcases request_cases k s with ⟨-, he⟩ | ⟨-, -, he⟩ | ⟨n, -, -, -, he⟩ | ⟨r, hp, hsize, he⟩ <;> rw [he]
  · exact hf
  · exact hf
  · exact hf
  · obtain ⟨i, h3, h6, hread⟩ := outgoingSize_error hsize
    rcases memRead_error hread with ⟨-, hnone, rfl⟩ | ⟨hmax, -⟩
    · exact ⟨i, rfl, hnone, .inr ⟨hp, h3, h6⟩⟩
    · exact absurd (Nat.lt_of_lt_of_le h6 (by decide : 6 ≤ pktMax)) (Nat.not_lt.2 hmax)

/-- A record long enough has its baud byte and its timeout byte written (R163). -/
theorem recordsOnly_setConfig {size : Byte} {P : Fault → Prop} (hf : s.fault = none) (h : s.HoldsPacket size) :
    RecordsOnly P (execSetConfig s) := by
  obtain ⟨h1, hw⟩ := h
  by_cases hs : size.toNat < 3
  · exact execSetConfig_short h1 hs ▸ hf
  · obtain ⟨b, h3⟩ := Option.isSome_iff_exists.1 (hw 3 (by omega))
    obtain ⟨ms, h4⟩ := Option.isSome_iff_exists.1 (hw 4 (by omega))
    rw [execSetConfig_of_record h1 (Nat.le_of_not_lt hs) h3]
    split
    · exact acceptConfig_of_read h4 ▸ hf
    · cases baudOfByte b with
      | none => exact hf
      | some be =>
        rw [Option.elim_some, acceptConfig_of_read (s := setBaud be (phyReset s)) h4]
        exact hf

theorem recordsOnly_dispatch {size : Byte} (hf : s.fault = none) (h : s.HoldsPacket size) (cmd : Byte) :
    RecordsOnly s.OutgoingRead (dispatch cmd s) :=
  dispatch_of_commands (p := RecordsOnly s.OutgoingRead)
    (nothing := hf)
    (reset := execReset_eq s ▸ hf)
    (config := recordsOnly_setConfig hf h)
    (send := recordsOnly_startRequest hf)
    (reserved := hf)
    cmd

theorem recordsOnly_handlePacket {size : Byte} (hf : s.fault = none) (h : s.HoldsPacket size) :
    RecordsOnly s.OutgoingRead (execHandlePacket s) := by
  obtain ⟨h1, hw⟩ := h
  have hmax : 3 + size.toNat ≤ pktMax := by
    have hbyte : size.toNat < 256 := size.isLt
    unfold pktMax; omega
  obtain ⟨cmd, h0⟩ := Option.isSome_iff_exists.1 (hw 0 (by omega))
  obtain ⟨cs, h2⟩ := Option.isSome_iff_exists.1 (hw 2 (by omega))
  obtain ⟨payload, hp⟩ := memReadRange_isOk (b := .rxPkt) hmax fun i _ hi => hw i hi
  rw [execHandlePacket_eq h0 h1 h2 hp]
  split
  · exact hf
  · exact recordsOnly_dispatch hf ⟨h1, hw⟩ cmd

end Sys2Proof.Machine
end

section
/-! The faults of the SPI exchange: those of the packet its byte completes (R140 to R147). -/

namespace Sys2Proof.Machine

variable {s : State}

theorem recordsOnly_packetComplete (hf : s.fault = none)
    (hwhole : 3 ≤ s.rxCursor → s.rxCursor = s.rxExpected → ∃ size, s.HoldsPacket size) :
    RecordsOnly s.OutgoingRead (packetComplete s) := by
  rcases packetComplete_cases s with ⟨-, he⟩ | ⟨h3, hlen, he⟩
  · exact he ▸ hf
  · obtain ⟨size, hpacket⟩ := hwhole h3 hlen
    exact he ▸ recordsOnly_andThen (recordsOnly_handlePacket hf hpacket) fun _ hu => hu

/-- A cell left unwritten once a byte is stored was unwritten before. -/
theorem outgoingRead_of_afterByte {b : Byte} {r : Fault} (h : (s.afterByte b).OutgoingRead r) : s.OutgoingRead r := by
  obtain ⟨i, hr, hread, hplace⟩ := h
  have hread : (s.rxPkt.write s.rxCursor b).read i = none := hread
  rw [Memory.read_write] at hread
  split at hread
  · cases hread
  · exact ⟨i, hr, hread, hplace⟩

/-- The payload's last byte completes the packet its size byte announced (R146, R147). -/
theorem holdsPacket_afterByte (h : s.Inv) (b : Byte) (hc : 3 ≤ s.rxCursor + 1)
    (hlen : s.rxCursor + 1 = s.rxExpected) : ∃ size, (s.afterByte b).HoldsPacket size := by
  rcases h.assembler with ⟨h0, -⟩ | ⟨-, -, -, hsize⟩
  · omega
  · obtain ⟨size, h1, htotal⟩ := Option.map_eq_some_iff.1 hsize
    have htotal : 3 + size.toNat = s.rxExpected := htotal
    have hread : (s.rxPkt.write s.rxCursor b).read 1 = some size :=
      (Memory.read_write_other _ b (by omega)).trans h1
    refine ⟨size, hread, fun i hi => afterByte_received h b i ?_⟩
    show i < s.rxCursor + 1
    omega

/-- Stages 4 and 5 of a received byte (R146, R147). -/
theorem recordsOnly_afterByte (h : s.Inv) (hf : s.fault = none) (b : Byte) :
    RecordsOnly s.OutgoingRead (withValue (headerComplete (s.afterByte b)) packetComplete) := by
  refine RecordsOnly.mono (P := (s.afterByte b).OutgoingRead) ?_ fun _ => outgoingRead_of_afterByte
  have hreceived := afterByte_received h b
  rcases headerComplete_cases (s.afterByte b) with ⟨-, he⟩ | ⟨size, -, hsize, he⟩ | ⟨r, h3, hread, -⟩
  · exact he ▸ recordsOnly_packetComplete hf fun hc hlen => holdsPacket_afterByte h b hc hlen
  · obtain ⟨-, hsize⟩ := memRead_ok_iff.1 hsize
    refine he ▸ recordsOnly_packetComplete (s := setRxExpected (3 + size.toNat) (s.afterByte b)) hf fun _ hlen => ?_
    have hlen : (s.afterByte b).rxCursor = 3 + size.toNat := hlen
    exact ⟨size, hsize, fun i hi => hreceived i (hlen.symm ▸ hi)⟩
  · exact absurd hread (memRead_ne_error_of_isSome (b := .rxPkt) (by decide) (hreceived 1 (by omega)))

theorem recordsOnly_receive (h : s.Inv) (hf : s.fault = none) (b : Byte) :
    RecordsOnly s.OutgoingRead (receive b s) := by
  by_cases hd : s.blocked = true ∨ (s.rxCursor = 0 ∧ b = 0x00#8)
  · exact receive_dropped hd ▸ hf
  · rw [not_or, not_and, Bool.not_eq_true] at hd
    obtain ⟨hb, hnop⟩ := hd
    exact receive_eq_afterByte h hb hnop ▸ recordsOnly_afterByte h hf b

/-- The byte out is one of the queued packet, all of whose bytes are written (R141); the byte in is received. -/
theorem recordsOnly_spiHandler (h : s.Inv) (hf : s.fault = none) (b : Byte) :
    RecordsOnly s.OutgoingRead (spiHandler b s) := by
  unfold spiHandler
  rcases drainByte_cases s with ⟨-, he⟩ | ⟨v, hc, -, he⟩ | ⟨r, hc, hread, -⟩
  · have hlogged : (logHostByte 0x00#8 s).Inv := { h with }
    exact he ▸ recordsOnly_receive hlogged hf b
  · have hdrained : (markDrained s).Inv := h.of_link (linkInv_markDrained h.link hc) rfl rfl rfl
    have hlogged : (logHostByte v (markDrained s)).Inv := { hdrained with }
    exact he ▸ recordsOnly_receive hlogged hf b
  · have hcell : s.txCursor < pktMax := Nat.lt_of_lt_of_le hc h.drain.2
    exact absurd hread (memRead_ne_error_of_isSome (b := .txPkt) hcell (h.link.queued s.txCursor hc))

end Sys2Proof.Machine
end

section
/-! The faults of a step (R61, R62, R203, R237). -/

namespace Sys2Proof.Machine

/-- Each of the five events (R94). -/
theorem recordsOnly_event {s : State} (h : s.Inv) (hf : s.fault = none) {bs rest : List Byte} {i : Instr}
    (hd : decode .event bs = .ok (i, rest)) : RecordsOnly s.OutgoingRead (exec i s) := by
  rcases decode_event_cases hd with ⟨b, rfl, -⟩ | ⟨rfl, -⟩ | ⟨rfl, -⟩ | ⟨b, rfl, -⟩ | ⟨rfl, -⟩
  · exact recordsOnly_takeInterrupt hf (recordsOnly_spiHandler h hf b)
  · exact recordsOnly_takeInterrupt hf (recordsOnly_udreHandler h hf)
  · exact recordsOnly_takeInterrupt hf (recordsOnly_txcHandler hf)
  · exact recordsOnly_takeInterrupt hf (recordsOnly_rxcHandler h hf b)
  · exact recordsOnly_takeInterrupt hf (recordsOnly_shiftOne hf)

/-- Settles O57: boot and an idle step record no fault, and an event records its handler's. -/
theorem onlyOutgoingTelegramFaults : Obligations.OnlyOutgoingTelegramFaults := by
  intro s t r h hf hstep hr
  show s.OutgoingRead r
  have clean : t.fault ≠ none := by simp [hr]
  obtain ⟨-, ⟨-, hboot⟩ | ⟨-, -, rfl⟩ | ⟨i, rest, -, hd, hevent⟩⟩ := step_cases hstep
  · cases hboot
    exact absurd hf clean
  · exact absurd hf clean
  · have hscript : (setScript rest s).Inv := { h with }
    have honly : RecordsOnly s.OutgoingRead (exec i (setScript rest s)) := recordsOnly_event hscript hf hd
    rcases hevent with hnext | ⟨r', hfault, rfl⟩
    · rw [hnext] at honly
      exact absurd honly clean
    · rw [hfault] at honly
      cases hr
      exact honly

end Sys2Proof.Machine
end

section
/-! Before boot (R230, R231): the next step is the boot step, and the events wait for it. -/

namespace Sys2Proof.Machine

variable {s : State}

/-- Before boot the step does not look at the script. -/
theorem step_of_not_booted (hf : s.fault = none) (hb : s.booted = false) : step s = exec .boot s := by
  simp [step, hf, hb]

/-- Before boot no event is taken, whatever its own condition of admission. -/
theorem takeInterrupt_of_not_booted {a : State → Bool} {h : State → Res} (hf : s.fault = none)
    (hb : s.booted = false) : takeInterrupt a h s = .refused .eventNotAdmitted := by
  simp [takeInterrupt, hf, hb]

/-- Settles O6: the step and `takeInterrupt`, which each of the five events is, test `booted` before anything else of
a state with no fault. -/
theorem bootComesBeforeEvents : Obligations.BootComesBeforeEvents := by
  intro s hf hb
  have event : ∀ a h, takeInterrupt a h s = .refused .eventNotAdmitted := fun _ _ =>
    takeInterrupt_of_not_booted hf hb
  exact ⟨step_of_not_booted hf hb, fun _ => event _ _, event _ _, event _ _, fun _ => event _ _, event _ _⟩

end Sys2Proof.Machine
end

section
/-! The power-on state (spec/10_state.md section 8) and the boot step that sets it up (R230, R231). -/

namespace Sys2Proof.Machine

/-- Settles O10: the two buffers are empty, so no cell is written; every other field has the value itself. -/
theorem powerOnValues : Obligations.PowerOnValues := by
  refine ⟨rfl, rfl, rfl, rfl, rfl, rfl, rfl, rfl, rfl, rfl, rfl, ?rxUnwritten, rfl, rfl, ?txUnwritten, rfl, rfl, rfl, rfl,
    rfl, rfl, rfl, rfl⟩
  case rxUnwritten => exact Memory.read_nil
  case txUnwritten => exact Memory.read_nil

/-- The acts of boot in R231's order; none of them can stop. -/
theorem execBoot_eq (s : State) : execBoot s = .next (enableInterrupts (hostlinkReset
    (setBaud Config.baudInit (setPhyCursor 0 (setPhySize 0 (phyReset s)))))) := rfl

/-- Settles O11: between them the acts of boot write every field of PhyLink and HostLink but `cfg_rx_timeout_ms`, and of
the rest the flag `booted` alone. -/
theorem bootGivesPowerOnState : Obligations.BootGivesPowerOnState := execBoot_eq

end Sys2Proof.Machine
end
